-- ==== Sys2Proof/Word.lean ====
section
/-! DEFINITION. The word types of the DHT acquisition engine (30_encoding.md R70, 10_state.md R23). -/

namespace Sys2Proof

/-- A host-visible register, 32 bits (00_scope.md R8, `REG_WIDTH`). -/
abbrev Word := BitVec 32

/-- One byte of the ByteQuintet (41_checksum.md R140). -/
abbrev Byte := BitVec 8

/-- The RawFrame, 40 bits (10_state.md R27). -/
abbrev Frame := BitVec 40

/-- A host transaction in format BUS36 (30_encoding.md R70). -/
abbrev BusWord := BitVec 36

end Sys2Proof
end

