-- ==== Sys2Proof/Config.lean ====
section
/-! DEFINITION. The parameters of one instance with their bounds (00_scope.md R8), the fixed constants, and the
values that the spec leaves free. -/

namespace Sys2Proof

/-- The parameters of one instance (00_scope.md R8): fixed for the instance, an argument of the model. -/
structure Params where
  /-- `CLK_PER_US`: clock cycles per microsecond. OPEN in the spec (D2). -/
  clkPerUs  : Nat
  /-- `T_REQ_US`: the request pulse, in µs. -/
  tReqUs    : Nat
  /-- `T_SETTLE_US`: the line-settle wait, in µs. -/
  tSettleUs : Nat
  /-- `T_SAMPLE_US`: the delay before a bit's sample, in µs. -/
  tSampleUs : Nat
  deriving DecidableEq, Repr

/-- `DUR_REQ` (R8). -/
def Params.durReq (p : Params) : Nat := p.tReqUs * p.clkPerUs

/-- `DUR_SETTLE` (R8). -/
def Params.durSettle (p : Params) : Nat := p.tSettleUs * p.clkPerUs

/-- `DUR_SAMPLE` (R8). -/
def Params.durSample (p : Params) : Nat := p.tSampleUs * p.clkPerUs

/-- The bounds of 00_scope.md R8 (decision D24): an instance outside them is refused. -/
def Params.ok (p : Params) : Bool :=
  decide (1 ≤ p.clkPerUs ∧ p.clkPerUs ≤ 65536 ∧ 1 ≤ p.tReqUs ∧ 1 ≤ p.tSettleUs ∧ 1 ≤ p.tSampleUs
    ∧ p.durReq ≤ 2 ^ 32 ∧ p.durSettle ≤ 2 ^ 32 ∧ p.durSample ≤ 2 ^ 32 ∧ 2 ≤ p.durSettle)

/-- The instance of `State.reset`: the default durations of R8. DESIGN CHOICE: `CLK_PER_US`, which the spec leaves
open, is 1 here and only here (notes/assumptions/4.md). No other definition and no statement uses that value. -/
def Params.atReset : Params := { clkPerUs := 1, tReqUs := 18000, tSettleUs := 20, tSampleUs := 28 }

/-- `FRAME_BITS` (R8). -/
def Config.frameBits : Nat := 40

/-- `SENTINEL`, -999.0 in hundredths (R8), as an integer. -/
def Config.sentinelHundredths : Int := -99900

/-- The register pattern of `SENTINEL`, two's complement (00_scope.md R9, 10_state.md R36). -/
def Config.sentinel : Word := BitVec.ofInt 32 Config.sentinelHundredths

/-- FREE VALUE: the level on `dq_in` in cycle t, where nothing has been placed on the port (00_scope.md R7, 93 I1).
No body: nothing constrains it (notes/assumptions/1.md). -/
opaque Config.freeLine : Nat → Bool

/-- FREE VALUE: the `rst` input in cycle t, where nothing has been placed on the port (00_scope.md R7). -/
opaque Config.freeRst : Nat → Bool

/-- FREE VALUE: the host port's word in cycle t, where nothing has been placed on it (00_scope.md R7). -/
opaque Config.freeBus : Nat → BusWord

end Sys2Proof
end

