-- ==== Sys2Proof/Syntax.lean ====
section
/-! DEFINITION. The host transactions (spec/opcode_table.json, 30_encoding.md R71), one constructor per row. -/

namespace Sys2Proof

/-- SensorVariant (00_scope.md R12, 30_encoding.md R72): selects the conversion formula. -/
inductive SensorVariant where
  | dht11
  | dht22
  deriving DecidableEq, Repr

/-- A host transaction. A read carries the port's DATA field, which the block ignores (R70); a write carries its
DATA field split as 30_encoding.md R72 and R76 split it, the reserved bits kept. -/
inductive Instr where
  /-- RD_CTRL, 43_host_ops.md R184. -/
  | rdCtrl (data : Word)
  /-- RD_STATUS, R185. -/
  | rdStatus (data : Word)
  /-- RD_TEMP, R186. -/
  | rdTemp (data : Word)
  /-- RD_HUM, R187. -/
  | rdHum (data : Word)
  /-- RD_TIMEOUT, R194. -/
  | rdTimeout (data : Word)
  /-- RD_RSVD5, R196. -/
  | rdRsvd5 (data : Word)
  /-- RD_RSVD6, R196. -/
  | rdRsvd6 (data : Word)
  /-- RD_RSVD7, R196. -/
  | rdRsvd7 (data : Word)
  /-- ACQUIRE, R182: VARIANT is DATA[1], PULLUP is DATA[2], `rsvd` is DATA[31:3]. -/
  | acquire (variant : SensorVariant) (pullUp : Bool) (rsvd : BitVec 29)
  /-- CTRL_NOP, R183: `data` is DATA[31:1], the bit START being 0. -/
  | ctrlNop (data : BitVec 31)
  /-- WR_STATUS, R188. -/
  | wrStatus (data : Word)
  /-- WR_TEMP, R189. -/
  | wrTemp (data : Word)
  /-- WR_HUM, R190. -/
  | wrHum (data : Word)
  /-- WR_TIMEOUT, R195: `limitUs` is DATA[15:0], `rsvd` is DATA[31:16]. -/
  | wrTimeout (limitUs : BitVec 16) (rsvd : BitVec 16)
  /-- WR_RSVD5, R197. -/
  | wrRsvd5 (data : Word)
  /-- WR_RSVD6, R197. -/
  | wrRsvd6 (data : Word)
  /-- WR_RSVD7, R197. -/
  | wrRsvd7 (data : Word)
  deriving DecidableEq, Repr

end Sys2Proof
end

