-- ==== Sys2Proof/Machine/State.lean ====
section
/-! DEFINITION. The state: the block's record of 10_state.md R23, the instance's parameters, and the environment's
side (input waveforms, the host's latest read). Plain data. -/

namespace Sys2Proof.Machine

/-- The phase register `st` (10_state.md R24). All sixteen codes have a value: `reserved k` is code 11 + k, which no
run reaches and from which a step is a fault (R38, notes/assumptions/7.md). -/
inductive Phase where
  | idle | req | settle | respWaitH | respL | respH
  | bitGapH | bitStartL | bitDelay | bitSample | convert
  | reserved (k : Fin 5)
  deriving DecidableEq, Repr

/-- The error code `err` (10_state.md R32, 60_exceptions.md R301). Code 3 has a value, and is never produced
(notes/assumptions/8.md). -/
inductive ErrCode where
  | none | noResponse | timingError | reserved
  deriving DecidableEq, Repr

/-- The block's state record (10_state.md R22, R23). -/
structure Regs where
  /-- `st`, the phase register (R24). -/
  st       : Phase
  /-- `tcnt`, the phase's cycle counter, unsigned, saturating (R25). -/
  tcnt     : BitVec 32
  /-- `sync1`, first flop of the input synchronizer (R26). -/
  sync1    : Bool
  /-- `sync2`, second flop: the level `dq_s` the state machine sees (R26). -/
  sync2    : Bool
  /-- `frame`, the RawFrame shift register (R27). -/
  frame    : Frame
  /-- `bit_idx`, data bits sampled so far (R28). -/
  bitIdx   : BitVec 6
  /-- `var_q`, the acquisition's SensorVariant (R29). -/
  varQ     : SensorVariant
  /-- `pu_q`, the acquisition's pull-up argument (R29). -/
  puQ      : Bool
  /-- `pull_en`, the pad pull-up request (R30). -/
  pullEn   : Bool
  /-- `temp`, hundredths of a °C, two's complement (R31). -/
  temp     : Word
  /-- `hum`, hundredths of a %RH, two's complement (R31). -/
  hum      : Word
  /-- `success` (R32). -/
  success  : Bool
  /-- `done` (R32). -/
  done     : Bool
  /-- `err` (R32). -/
  err      : ErrCode
  /-- `err_phase`: the phase whose timeout fired, or code 0, that is `idle` (R32, notes/assumptions/19.md). -/
  errPhase : Phase
  /-- `to_limit`, the timeout limit in µs; 0 disables (R33). -/
  toLimit  : BitVec 16
  deriving DecidableEq, Repr

/-- The inputs of one cycle (10_state.md R21): `rst`, `dq_in`, and the host port's `{bus_we, bus_addr, bus_wdata}` as
a BUS36 word (30_encoding.md R70). -/
structure Inputs where
  rst  : Bool
  dqIn : Bool
  bus  : BusWord
  deriving DecidableEq, Repr

/-- The machine: the instance's parameters, the block's record, and the MODEL's own fields for the outside
(INVENTORY.md, State). -/
structure State where
  /-- The instance's parameters (00_scope.md R8); no step changes them. -/
  cfg   : Params
  /-- The block's state record. -/
  regs  : Regs
  /-- MODEL's own: the word the host took in its latest read transaction (20_memory.md R52, R53). -/
  rdata : Word
  /-- MODEL's own: the inputs placed on the ports, the present cycle's first; beyond the end they are free. -/
  env   : List Inputs
  /-- MODEL's own: the number of the present cycle (00_scope.md R11). -/
  cycle : Nat
  deriving DecidableEq, Repr

/-- Why a step is a fault. -/
inductive Fault where
  /-- The phase register holds a reserved code 11 to 15 (10_state.md R38). Raised by the state machine's step. Safe: the
  machine stops where the spec allows no transition, and no reset state reaches it. -/
  | illegalPhase
  deriving DecidableEq, Repr

/-- Why a step is refused. -/
inductive Refusal where
  /-- An instruction with no meaning yet. Raised by no arm: every row of the table has its meaning. Safe. -/
  | notModelled (mnemonic : String)
  /-- The instance breaks a bound of 00_scope.md R8 ("A model refuses an instance that breaks a bound"). Raised by
  every step of such an instance. Safe. -/
  | parametersOutOfBounds
  deriving DecidableEq, Repr

/-- RESET_STATE (10_state.md R36). -/
def Regs.reset : Regs :=
  { st := .idle, tcnt := 0, sync1 := true, sync2 := true, frame := 0, bitIdx := 0, varQ := .dht11, puQ := false,
    pullEn := false, temp := Config.sentinel, hum := Config.sentinel, success := false, done := false,
    err := .none, errPhase := .idle, toLimit := 0 }

/-- The machine right after reset, for an instance with the given parameters and nothing placed on its inputs. -/
def State.resetOf (p : Params) : State := { cfg := p, regs := Regs.reset, rdata := 0, env := [], cycle := 0 }

/-- The machine right after reset (R36; the fields that are the model's own: notes/assumptions/1.md to 4.md). -/
def State.reset : State := State.resetOf Params.atReset

end Sys2Proof.Machine
end

