-- ==== Sys2Proof/Machine/Checksum.lean ====
section
/-! DEFINITION. Byte assembly and the checksum validator (41_checksum.md R140 to R144). -/

namespace Sys2Proof.Machine

/-- One sampled bit shifted in at bit 0: `((frame << 1) | b) mod 2^40` (R140). -/
def shiftIn (frame : Frame) (b : Bool) : Frame := (frame <<< 1) ||| (BitVec.ofBool b).setWidth 40

/-- b0, humidity-high (R140). -/
def byte0 (f : Frame) : Byte := f.extractLsb' 32 8
/-- b1, humidity-low (R140). -/
def byte1 (f : Frame) : Byte := f.extractLsb' 24 8
/-- b2, temperature-high (R140). -/
def byte2 (f : Frame) : Byte := f.extractLsb' 16 8
/-- b3, temperature-low (R140). -/
def byte3 (f : Frame) : Byte := f.extractLsb' 8 8
/-- b4, checksum (R140). -/
def byte4 (f : Frame) : Byte := f.extractLsb' 0 8

/-- The accumulator: the unsigned sum of bytes 0 to 3, 0 to 1020, exact (R142). -/
def checksumSum (b0 b1 b2 b3 : Byte) : Nat := b0.toNat + b1.toNat + b2.toNat + b3.toNat

/-- The two conditional subtractions (R143). -/
def checksumReduce (sum : Nat) : Nat :=
  let s1 := if sum ≥ 512 then sum - 512 else sum
  if s1 ≥ 256 then s1 - 256 else s1

/-- The verdict: the reduced sum equals byte 4 (R144). -/
def checksumOk (b0 b1 b2 b3 b4 : Byte) : Bool := checksumReduce (checksumSum b0 b1 b2 b3) == b4.toNat

/-- The verdict on a whole frame (R140, R144). -/
def frameOk (f : Frame) : Bool := checksumOk (byte0 f) (byte1 f) (byte2 f) (byte3 f) (byte4 f)

end Sys2Proof.Machine
end

