-- ==== Sys2Proof/Machine/Converter.lean ====
section
/-! DEFINITION. The fixed-point converter: exact integers in hundredths (42_conversion.md R160 to R168). -/

namespace Sys2Proof.Machine

/-- DHT11 humidity (R161). -/
def hum11 (b0 b1 : Byte) : Int := 100 * b0.toNat + b1.toNat

/-- DHT11 temperature (R162): no sign, bit 7 of b2 is a value bit. -/
def temp11 (b2 b3 : Byte) : Int := 100 * b2.toNat + b3.toNat

/-- DHT22 humidity (R163). -/
def hum22 (b0 b1 : Byte) : Int := 10 * (256 * b0.toNat + b1.toNat)

/-- The magnitude `m` of a DHT22 temperature, in tenths (R164). -/
def magnitude22 (b2 b3 : Byte) : Int := 256 * (b2.extractLsb' 0 7).toNat + b3.toNat

/-- DHT22 temperature: sign and magnitude (R164, R165). -/
def temp22 (b2 b3 : Byte) : Int :=
  if b2.getLsbD 7 then -(10 * magnitude22 b2 b3) else 10 * magnitude22 b2 b3

/-- The formula selector `Convert` (R168): temperature, humidity. -/
def convert (v : SensorVariant) (b0 b1 b2 b3 : Byte) : Int × Int :=
  match v with
  | .dht11 => (temp11 b2 b3, hum11 b0 b1)
  | .dht22 => (temp22 b2 b3, hum22 b0 b1)

/-- `Convert` on the bytes of a frame (R140, R168). -/
def convertFrame (v : SensorVariant) (f : Frame) : Int × Int := convert v (byte0 f) (byte1 f) (byte2 f) (byte3 f)

/-- A signed register takes an integer as its two's-complement pattern (00_scope.md R9); every converter result fits
(R166). -/
def signedWord (v : Int) : Word := BitVec.ofInt 32 v

end Sys2Proof.Machine
end

