-- ==== Sys2Proof/WellFormed.lean ====
section
/-! DEFINITION. The form in which the spec writes a transaction (30_encoding.md R70). -/

namespace Sys2Proof

/-- R70: the DATA field of a read is "written as 0 in this spec". -/
def readDataIsZero (data : Word) : Bool := data == 0#32

/-- A transaction in the spec's own written form. Every transaction has a meaning, well-formed or not (R71, R77: no
pattern is illegal); the one convention of writing is that a read's ignored DATA field is 0 (R70,
notes/assumptions/16.md). The operands of the writes have the widths of their fields, and every value is legal. -/
def Instr.wellFormed : Instr → Bool
  | .rdCtrl data => readDataIsZero data
  | .rdStatus data => readDataIsZero data
  | .rdTemp data => readDataIsZero data
  | .rdHum data => readDataIsZero data
  | .rdTimeout data => readDataIsZero data
  | .rdRsvd5 data => readDataIsZero data
  | .rdRsvd6 data => readDataIsZero data
  | .rdRsvd7 data => readDataIsZero data
  | .acquire _ _ _ => true
  | .ctrlNop _ => true
  | .wrStatus _ => true
  | .wrTemp _ => true
  | .wrHum _ => true
  | .wrTimeout _ _ => true
  | .wrRsvd5 _ => true
  | .wrRsvd6 _ => true
  | .wrRsvd7 _ => true

end Sys2Proof
end

