-- ==== Sys2Proof/Decode.lean ====
section
/-! DEFINITION. Decoding and encoding of host transactions (30_encoding.md R70 to R72, R76, R78), and the opcode map
of R71 as a table of mask and match. -/

namespace Sys2Proof

/-! ## Fields of BUS36 and of the DATA word -/

/-- DATA, bits [31:0] (R70). -/
def busData (w : BusWord) : Word := w.extractLsb' 0 32

/-- CTRL bit 1: 0 is DHT11, 1 is DHT22 (R72). -/
def variantOfBit (b : Bool) : SensorVariant := if b then .dht22 else .dht11

/-- The code of a SensorVariant (R72, R82). -/
def SensorVariant.bit : SensorVariant → Bool
  | .dht11 => false
  | .dht22 => true

/-- A write to CTRL (R72): bit 0 is START, and selects the operation (R71). -/
def decodeCtrlWrite (d : Word) : Instr :=
  if d.getLsbD 0 then .acquire (variantOfBit (d.getLsbD 1)) (d.getLsbD 2) (d.extractLsb' 3 29)
  else .ctrlNop (d.extractLsb' 1 31)

/-- The transaction a BUS36 word stands for (R71). The four bits matched on are WE and ADDR; the map is total, so no
word is refused. -/
def decode (w : BusWord) : Instr :=
  match w.getLsbD 35, w.getLsbD 34, w.getLsbD 33, w.getLsbD 32 with
  | false, false, false, false => .rdCtrl (busData w)
  | false, false, false, true  => .rdStatus (busData w)
  | false, false, true,  false => .rdTemp (busData w)
  | false, false, true,  true  => .rdHum (busData w)
  | false, true,  false, false => .rdTimeout (busData w)
  | false, true,  false, true  => .rdRsvd5 (busData w)
  | false, true,  true,  false => .rdRsvd6 (busData w)
  | false, true,  true,  true  => .rdRsvd7 (busData w)
  | true,  false, false, false => decodeCtrlWrite (busData w)
  | true,  false, false, true  => .wrStatus (busData w)
  | true,  false, true,  false => .wrTemp (busData w)
  | true,  false, true,  true  => .wrHum (busData w)
  | true,  true,  false, false => .wrTimeout ((busData w).extractLsb' 0 16) ((busData w).extractLsb' 16 16)
  | true,  true,  false, true  => .wrRsvd5 (busData w)
  | true,  true,  true,  false => .wrRsvd6 (busData w)
  | true,  true,  true,  true  => .wrRsvd7 (busData w)

/-- Why a pattern of bits is no transaction. -/
inductive DecodeReject where
  /-- A bit above bit 35 is set: the port has 36 wires (R70: "A host transaction is 36 bits wide"). -/
  | widerThanPort
  deriving DecidableEq, Repr

/-- Decode a pattern of any width, given as a number: the port takes 36 bits (R70), a wider pattern is rejected by
name (notes/assumptions/11.md). -/
def decodePattern (w : Nat) : Except DecodeReject Instr :=
  if w < 2 ^ 36 then .ok (decode (BitVec.ofNat 36 w)) else .error .widerThanPort

/-- Decode a list of bytes, the least significant byte first. The port moves no bytes (20_memory.md R55); this is a
writing-down of the 36 wires for a caller that holds bytes. -/
def decodeBytes (bytes : List Byte) : Except DecodeReject Instr :=
  decodePattern (bytes.foldr (fun b n => b.toNat + 256 * n) 0)

/-- The host's question to the decoder: the instruction whose bits are `w`, numbered as spec/opcode_table.json
numbers them; `nbits` are given and every bit above them is 0. -/
def decodeTableWord (nbits w : Nat) : Option Instr :=
  match decodePattern (w % 2 ^ nbits) with
  | .ok i => some i
  | .error _ => none

/-! ## Encoding -/

/-- `{WE, ADDR, DATA}` (R70). -/
def busWord (we : Bool) (addr : BitVec 3) (data : Word) : BusWord := BitVec.ofBool we ++ addr ++ data

/-- The DATA word of ACQUIRE: `{rsvd, PULLUP, VARIANT, START = 1}` (R72). -/
def acquireData (variant : SensorVariant) (pullUp : Bool) (rsvd : BitVec 29) : Word :=
  rsvd ++ BitVec.ofBool pullUp ++ BitVec.ofBool variant.bit ++ 1#1

/-- The DATA word of CTRL_NOP: `{data, START = 0}` (R72, R183). -/
def ctrlNopData (data : BitVec 31) : Word := data ++ 0#1

/-- The DATA word of WR_TIMEOUT: `{rsvd, LIMIT_US}` (R76). -/
def timeoutData (limitUs rsvd : BitVec 16) : Word := rsvd ++ limitUs

/-- The BUS36 word of a transaction (R70, R71). -/
def encode : Instr → BusWord
  | .rdCtrl data => busWord false 0 data
  | .rdStatus data => busWord false 1 data
  | .rdTemp data => busWord false 2 data
  | .rdHum data => busWord false 3 data
  | .rdTimeout data => busWord false 4 data
  | .rdRsvd5 data => busWord false 5 data
  | .rdRsvd6 data => busWord false 6 data
  | .rdRsvd7 data => busWord false 7 data
  | .acquire variant pullUp rsvd => busWord true 0 (acquireData variant pullUp rsvd)
  | .ctrlNop data => busWord true 0 (ctrlNopData data)
  | .wrStatus data => busWord true 1 data
  | .wrTemp data => busWord true 2 data
  | .wrHum data => busWord true 3 data
  | .wrTimeout limitUs rsvd => busWord true 4 (timeoutData limitUs rsvd)
  | .wrRsvd5 data => busWord true 5 data
  | .wrRsvd6 data => busWord true 6 data
  | .wrRsvd7 data => busWord true 7 data

/-! ## The opcode map as a table -/

/-- One row of the opcode map (R71): a word is of the row when `word &&& mask = pattern`. -/
structure OpcodeRow where
  mnemonic : String
  pattern  : BusWord
  mask     : BusWord
  deriving DecidableEq, Repr

/-- Does a word belong to a row? -/
def OpcodeRow.hit (r : OpcodeRow) (w : BusWord) : Bool := w &&& r.mask == r.pattern

/-- The opcode map, row by row as R71 and spec/opcode_table.json give it. -/
def opcodeRows : List OpcodeRow :=
  [ ⟨"RD_CTRL",    0x000000000#36, 0xF00000000#36⟩,
    ⟨"RD_STATUS",  0x100000000#36, 0xF00000000#36⟩,
    ⟨"RD_TEMP",    0x200000000#36, 0xF00000000#36⟩,
    ⟨"RD_HUM",     0x300000000#36, 0xF00000000#36⟩,
    ⟨"RD_TIMEOUT", 0x400000000#36, 0xF00000000#36⟩,
    ⟨"RD_RSVD5",   0x500000000#36, 0xF00000000#36⟩,
    ⟨"RD_RSVD6",   0x600000000#36, 0xF00000000#36⟩,
    ⟨"RD_RSVD7",   0x700000000#36, 0xF00000000#36⟩,
    ⟨"ACQUIRE",    0x800000001#36, 0xF00000001#36⟩,
    ⟨"CTRL_NOP",   0x800000000#36, 0xF00000001#36⟩,
    ⟨"WR_STATUS",  0x900000000#36, 0xF00000000#36⟩,
    ⟨"WR_TEMP",    0xA00000000#36, 0xF00000000#36⟩,
    ⟨"WR_HUM",     0xB00000000#36, 0xF00000000#36⟩,
    ⟨"WR_TIMEOUT", 0xC00000000#36, 0xF00000000#36⟩,
    ⟨"WR_RSVD5",   0xD00000000#36, 0xF00000000#36⟩,
    ⟨"WR_RSVD6",   0xE00000000#36, 0xF00000000#36⟩,
    ⟨"WR_RSVD7",   0xF00000000#36, 0xF00000000#36⟩ ]

/-- The mnemonic of a transaction, as spec/opcode_table.json spells it. -/
def Instr.mnemonic : Instr → String
  | .rdCtrl _ => "RD_CTRL"
  | .rdStatus _ => "RD_STATUS"
  | .rdTemp _ => "RD_TEMP"
  | .rdHum _ => "RD_HUM"
  | .rdTimeout _ => "RD_TIMEOUT"
  | .rdRsvd5 _ => "RD_RSVD5"
  | .rdRsvd6 _ => "RD_RSVD6"
  | .rdRsvd7 _ => "RD_RSVD7"
  | .acquire _ _ _ => "ACQUIRE"
  | .ctrlNop _ => "CTRL_NOP"
  | .wrStatus _ => "WR_STATUS"
  | .wrTemp _ => "WR_TEMP"
  | .wrHum _ => "WR_HUM"
  | .wrTimeout _ _ => "WR_TIMEOUT"
  | .wrRsvd5 _ => "WR_RSVD5"
  | .wrRsvd6 _ => "WR_RSVD6"
  | .wrRsvd7 _ => "WR_RSVD7"

end Sys2Proof
end

