-- ==== Sys2Proof/Machine/Flags.lean ====
section
/-! DEFINITION. Codes, the derived flag BUSY, the STATUS word and the output ports (10_state.md R24, R32, R34, R35;
30_encoding.md R73, R82). -/

namespace Sys2Proof.Machine

/-- The phase codes of 10_state.md R24. -/
def Phase.code : Phase → BitVec 4
  | .idle => 0
  | .req => 1
  | .settle => 2
  | .respWaitH => 3
  | .respL => 4
  | .respH => 5
  | .bitGapH => 6
  | .bitStartL => 7
  | .bitDelay => 8
  | .bitSample => 9
  | .convert => 10
  | .reserved k => BitVec.ofNat 4 (11 + k.val)

/-- The error codes of 60_exceptions.md R301. -/
def ErrCode.code : ErrCode → BitVec 2
  | .none => 0
  | .noResponse => 1
  | .timingError => 2
  | .reserved => 3

/-- `busy = (s.st ≠ IDLE)` (10_state.md R34). -/
def busy (s : Regs) : Bool := s.st != .idle

/-- The STATUS word, field by field from bit 31 down (30_encoding.md R73). -/
def statusWord (s : Regs) : Word :=
  0#10 ++ s.bitIdx ++ s.errPhase.code ++ s.st.code
    ++ 0#1 ++ BitVec.ofBool s.pullEn ++ BitVec.ofBool s.varQ.bit ++ s.err.code
    ++ BitVec.ofBool s.success ++ BitVec.ofBool s.done ++ BitVec.ofBool (busy s)

/-- The output `dq_oe`: the block pulls the line low exactly in REQ (10_state.md R35). -/
def dqOe (s : Regs) : Bool := s.st == .req

/-- The output port `pull_en` (10_state.md R35). -/
def pullEnPort (s : Regs) : Bool := s.pullEn

end Sys2Proof.Machine
end

