-- ==== Sys2Proof/Machine/Operands.lean ====
section
/-! DEFINITION. The words the host reads (30_encoding.md R72 to R77; 20_memory.md R53). -/

namespace Sys2Proof.Machine

/-- CTRL stores nothing and reads 0 (R72). -/
def ctrlWord (_s : Regs) : Word := 0

/-- TEMP: the two's-complement pattern of the stored temperature, whatever the success flag (R74). -/
def tempWord (s : Regs) : Word := s.temp

/-- HUM: the two's-complement pattern of the stored humidity, whatever the success flag (R75). -/
def humWord (s : Regs) : Word := s.hum

/-- TIMEOUT: LIMIT_US in bits [15:0], reserved bits 0 (R76). -/
def timeoutWord (s : Regs) : Word := s.toLimit.setWidth 32

/-- The reserved addresses read 0 (R77). -/
def reservedWord (_s : Regs) : Word := 0

/-- `ReadValue(s, a)` (20_memory.md R53, R59). -/
def readValue (s : Regs) (a : BitVec 3) : Word :=
  match a.getLsbD 2, a.getLsbD 1, a.getLsbD 0 with
  | false, false, false => ctrlWord s
  | false, false, true  => statusWord s
  | false, true,  false => tempWord s
  | false, true,  true  => humWord s
  | true,  false, false => timeoutWord s
  | true,  false, true  => reservedWord s
  | true,  true,  false => reservedWord s
  | true,  true,  true  => reservedWord s

end Sys2Proof.Machine
end

