-- ==== Sys2Proof/Machine/Ops.lean ====
section
/-! DEFINITION. The shared operations: the input ports, the host's side of a transaction, starting an acquisition, the
two generic phase kinds, and the timeout ending, which takes the place of an exception. -/

namespace Sys2Proof.Machine

/-! ## The input ports -/

/-- The inputs of cycle t where nothing is placed on the ports: free (00_scope.md R7). -/
def freeInputs (t : Nat) : Inputs := { rst := Config.freeRst t, dqIn := Config.freeLine t, bus := Config.freeBus t }

/-- The inputs k cycles from the present one. -/
def inputAt (s : State) (k : Nat) : Inputs :=
  match s.env[k]? with
  | some i => i
  | none => freeInputs (s.cycle + k)

/-- The inputs of the present cycle, `in` of 10_state.md R20. -/
def inputNow (s : State) : Inputs := inputAt s 0

/-- The transaction on the host port in the present cycle (20_memory.md R52, 30_encoding.md R71). -/
def fetch (s : State) : Instr := decode (inputNow s).bus

/-- The present cycle ends: its inputs have been used (00_scope.md R11). -/
def endCycle (s : State) : State := { s with env := s.env.tail, cycle := s.cycle + 1 }

/-- The inputs of the present cycle replaced, the later ones kept. -/
def placeInputs (i : Inputs) (s : State) : State := { s with env := i :: s.env.tail }

/-! ## The host's side of a transaction -/

/-- A read transaction: the host takes the value on `bus_rdata` (20_memory.md R52, R53). No field of the block
changes (R58). -/
def takeRead (v : Word) (s : State) : State := { s with rdata := v }

/-- `bus_rdata` in the present cycle: a function of the state and of `bus_addr` (10_state.md R21, 20_memory.md R53). -/
def busRdata (s : State) : Word := readValue s.regs ((inputNow s).bus.extractLsb' 32 3)

/-- StartAcquisition(v, p) (40_sequencer.md R101). `pull_en` and `to_limit` are not written. -/
def startAcquisition (v : SensorVariant) (p : Bool) (s : Regs) : Regs :=
  { s with
    st := .req, tcnt := 0, varQ := v, puQ := p, frame := 0, bitIdx := 0,
    temp := Config.sentinel, hum := Config.sentinel, success := false,
    done := false, err := .none, errPhase := .idle }

/-- `to_limit <- d[15:0]` (43_host_ops.md R195). -/
def setLimit (limitUs : BitVec 16) (s : Regs) : Regs := { s with toLimit := limitUs }

/-- The block's record changed by a transaction, nothing else of the machine. -/
def updateRegs (f : Regs → Regs) (s : State) : State := { s with regs := f s.regs }

/-! ## The generic phase kinds. Each reads the present state `s` and sets fields of the next state `s'` (00_scope.md
R10). -/

/-- `tcnt <- min(s.tcnt + 1, 2^32 - 1)` (10_state.md R25). -/
def saturatingSucc (t : BitVec 32) : BitVec 32 := BitVec.ofNat 32 (min (t.toNat + 1) (2 ^ 32 - 1))

/-- `st <- Q ; tcnt <- 0`. -/
def enterPhase (q : Phase) (s' : Regs) : Regs := { s' with st := q, tcnt := 0 }

/-- TimedPhase(P, DUR, Q, ExitAction) (40_sequencer.md R102). -/
def timedPhase (dur : Nat) (q : Phase) (exitAction : Regs → Regs) (s s' : Regs) : Regs :=
  if s.tcnt.toNat + 1 ≥ dur then exitAction (enterPhase q s')
  else { s' with tcnt := BitVec.ofNat 32 (s.tcnt.toNat + 1) }

/-- TimeoutCheck(P) (60_exceptions.md R303): exact, no wrap. -/
def timeoutCheck (p : Params) (s : Regs) : Bool :=
  s.toLimit != 0 && decide (s.tcnt.toNat + 1 ≥ s.toLimit.toNat * p.clkPerUs)

/-- The timeout ending `fail Code(P)` (60_exceptions.md R304), the one shared operation that stands where a processor
takes an exception. It saves the phase in `err_phase` and the code in `err`, sets `done` and returns to IDLE; the
Reading, `frame`, `bit_idx`, `var_q` and `pull_en` are kept. There is no return operation: the next accepted START
clears the record (R311, `startAcquisition`). -/
def failTimeout (code : ErrCode) (p : Phase) (s' : Regs) : Regs :=
  enterPhase .idle { s' with err := code, errPhase := p, done := true }

/-- WaitPhase(P, L, Q) with ErrCode(P) = `code` (40_sequencer.md R106): a level change beats a timeout
(60_exceptions.md R307). -/
def waitPhase (p : Params) (phase : Phase) (level : Bool) (q : Phase) (code : ErrCode) (s s' : Regs) : Regs :=
  if s.sync2 != level then enterPhase q s'
  else if timeoutCheck p s then failTimeout code phase s'
  else { s' with tcnt := saturatingSucc s.tcnt }

end Sys2Proof.Machine
end

