-- ==== Sys2Proof/Machine/HostReads.lean ====
section
/-! DEFINITION. The read transactions (43_host_ops.md R184 to R187, R194, R196). Each gives the host the word that
`bus_rdata` shows in the present state, and writes no field of the block. DATA is ignored (30_encoding.md R70). -/

namespace Sys2Proof.Machine

/-- RD_CTRL: 0 (R184). -/
def execRdCtrl (_data : Word) (s : State) : Host.Outcome State Fault Refusal := .next (takeRead (ctrlWord s.regs) s)

/-- RD_STATUS: `ReadValue(s, 1)` (R185). -/
def execRdStatus (_data : Word) (s : State) : Host.Outcome State Fault Refusal := .next (takeRead (statusWord s.regs) s)

/-- RD_TEMP (R186). -/
def execRdTemp (_data : Word) (s : State) : Host.Outcome State Fault Refusal := .next (takeRead (tempWord s.regs) s)

/-- RD_HUM (R187). -/
def execRdHum (_data : Word) (s : State) : Host.Outcome State Fault Refusal := .next (takeRead (humWord s.regs) s)

/-- RD_TIMEOUT (R194). -/
def execRdTimeout (_data : Word) (s : State) : Host.Outcome State Fault Refusal :=
  .next (takeRead (timeoutWord s.regs) s)

/-- RD_RSVD5: 0 (R196). -/
def execRdRsvd5 (_data : Word) (s : State) : Host.Outcome State Fault Refusal :=
  .next (takeRead (reservedWord s.regs) s)

/-- RD_RSVD6: 0 (R196). -/
def execRdRsvd6 (_data : Word) (s : State) : Host.Outcome State Fault Refusal :=
  .next (takeRead (reservedWord s.regs) s)

/-- RD_RSVD7: 0 (R196). -/
def execRdRsvd7 (_data : Word) (s : State) : Host.Outcome State Fault Refusal :=
  .next (takeRead (reservedWord s.regs) s)

end Sys2Proof.Machine
end

