-- ==== Sys2Proof/Machine/HostWrites.lean ====
section
/-! DEFINITION. The write transactions (43_host_ops.md R182, R183, R188 to R190, R195, R197): their effect at the edge
that ends the cycle, read from the present state only (10_state.md R20). -/

namespace Sys2Proof.Machine

/-- ACQUIRE: accepted in IDLE, dropped with no trace otherwise (R182). DATA[31:3] is ignored. -/
def execAcquire (variant : SensorVariant) (pullUp : Bool) (_rsvd : BitVec 29) (s : State) :
    Host.Outcome State Fault Refusal :=
  if s.regs.st == .idle then .next (updateRegs (startAcquisition variant pullUp) s) else .next s

/-- CTRL_NOP: nothing (R183). -/
def execCtrlNop (_data : BitVec 31) (s : State) : Host.Outcome State Fault Refusal := .next s

/-- WR_STATUS: nothing (R188). -/
def execWrStatus (_data : Word) (s : State) : Host.Outcome State Fault Refusal := .next s

/-- WR_TEMP: nothing (R189). -/
def execWrTemp (_data : Word) (s : State) : Host.Outcome State Fault Refusal := .next s

/-- WR_HUM: nothing (R190). -/
def execWrHum (_data : Word) (s : State) : Host.Outcome State Fault Refusal := .next s

/-- WR_TIMEOUT: `to_limit <- d[15:0]`, in any phase; d[31:16] is ignored (R195). -/
def execWrTimeout (limitUs _rsvd : BitVec 16) (s : State) : Host.Outcome State Fault Refusal :=
  .next (updateRegs (setLimit limitUs) s)

/-- WR_RSVD5: nothing (R197). -/
def execWrRsvd5 (_data : Word) (s : State) : Host.Outcome State Fault Refusal := .next s

/-- WR_RSVD6: nothing (R197). -/
def execWrRsvd6 (_data : Word) (s : State) : Host.Outcome State Fault Refusal := .next s

/-- WR_RSVD7: nothing (R197). -/
def execWrRsvd7 (_data : Word) (s : State) : Host.Outcome State Fault Refusal := .next s

end Sys2Proof.Machine
end

