-- ==== Sys2Proof/Machine/Dispatch.lean ====
section
/-! DEFINITION. One arm per transaction (43_host_ops.md): its effect on the block and on the host's read word. The rest
of the cycle is `finishCycle` (Machine/Sequencer.lean), which step runs. -/

namespace Sys2Proof.Machine

def exec (i : Instr) (s : State) : Host.Outcome State Fault Refusal :=
  match i with
  | .rdCtrl data => Sys2Proof.Machine.execRdCtrl data s
  | .rdStatus data => Sys2Proof.Machine.execRdStatus data s
  | .rdTemp data => Sys2Proof.Machine.execRdTemp data s
  | .rdHum data => Sys2Proof.Machine.execRdHum data s
  | .rdTimeout data => Sys2Proof.Machine.execRdTimeout data s
  | .rdRsvd5 data => Sys2Proof.Machine.execRdRsvd5 data s
  | .rdRsvd6 data => Sys2Proof.Machine.execRdRsvd6 data s
  | .rdRsvd7 data => Sys2Proof.Machine.execRdRsvd7 data s
  | .acquire variant pullUp rsvd => Sys2Proof.Machine.execAcquire variant pullUp rsvd s
  | .ctrlNop data => Sys2Proof.Machine.execCtrlNop data s
  | .wrStatus data => Sys2Proof.Machine.execWrStatus data s
  | .wrTemp data => Sys2Proof.Machine.execWrTemp data s
  | .wrHum data => Sys2Proof.Machine.execWrHum data s
  | .wrTimeout limitUs rsvd => Sys2Proof.Machine.execWrTimeout limitUs rsvd s
  | .wrRsvd5 data => Sys2Proof.Machine.execWrRsvd5 data s
  | .wrRsvd6 data => Sys2Proof.Machine.execWrRsvd6 data s
  | .wrRsvd7 data => Sys2Proof.Machine.execWrRsvd7 data s

end Sys2Proof.Machine
end

