-- ==== Sys2Proof/Machine/Sequencer.lean ====
section
/-! DEFINITION. The state machine, one definition per phase (40_sequencer.md R103 to R114, 41_checksum.md R146). Each
reads the present record `s` and sets fields of the next record `s'`. -/

namespace Sys2Proof.Machine

/-- ReleaseLine, the exit action of REQ (R104): `pull_en` is set when `pu_q` is, and never cleared. -/
def releaseLine (s s' : Regs) : Regs := if s.puQ then { s' with pullEn := true } else s'

/-- IDLE: no field is written (R114). -/
def phaseIdle (_p : Params) (_s s' : Regs) : Regs := s'

/-- REQ: the request pulse (R103). -/
def phaseReq (p : Params) (s s' : Regs) : Regs := timedPhase p.durReq .settle (releaseLine s) s s'

/-- SETTLE (R105). -/
def phaseSettle (p : Params) (s s' : Regs) : Regs := timedPhase p.durSettle .respWaitH id s s'

/-- RESP_WAIT_H: wait while the line is high; a timeout is NO_RESPONSE (R107). -/
def phaseRespWaitH (p : Params) (s s' : Regs) : Regs := waitPhase p .respWaitH true .respL .noResponse s s'

/-- RESP_L: wait while the line is low; a timeout is TIMING_ERROR (R108). -/
def phaseRespL (p : Params) (s s' : Regs) : Regs := waitPhase p .respL false .respH .timingError s s'

/-- RESP_H: wait while the line is high (R109). -/
def phaseRespH (p : Params) (s s' : Regs) : Regs := waitPhase p .respH true .bitGapH .timingError s s'

/-- BIT_GAP_H: wait while the line is high (R110). -/
def phaseBitGapH (p : Params) (s s' : Regs) : Regs := waitPhase p .bitGapH true .bitStartL .timingError s s'

/-- BIT_START_L: wait while the line is low (R111). -/
def phaseBitStartL (p : Params) (s s' : Regs) : Regs := waitPhase p .bitStartL false .bitDelay .timingError s s'

/-- BIT_DELAY (R112). -/
def phaseBitDelay (p : Params) (s s' : Regs) : Regs := timedPhase p.durSample .bitSample id s s'

/-- BIT_SAMPLE: the one sample of a bit; the 40th leads to CONVERT (R113). -/
def phaseBitSample (_p : Params) (s s' : Regs) : Regs :=
  { s' with
    frame := shiftIn s.frame s.sync2,
    bitIdx := s.bitIdx + 1,
    tcnt := 0,
    st := if s.bitIdx == 39 then .convert else .bitGapH }

/-- CONVERT: checksum, conversion and commit in one cycle (41_checksum.md R146). -/
def phaseConvert (_p : Params) (s s' : Regs) : Regs :=
  if frameOk s.frame then
    { s' with
      temp := signedWord (convertFrame s.varQ s.frame).1,
      hum := signedWord (convertFrame s.varQ s.frame).2,
      success := true, done := true, st := .idle, tcnt := 0 }
  else { s' with success := false, done := true, st := .idle, tcnt := 0 }

/-- FsmStep: one arm per phase; a reserved phase code is the fault "illegal phase" (10_state.md R20, R38). -/
def fsmStep (p : Params) (s s' : Regs) : Host.Outcome Regs Fault Refusal :=
  match s.st with
  | .idle => .next (phaseIdle p s s')
  | .req => .next (phaseReq p s s')
  | .settle => .next (phaseSettle p s s')
  | .respWaitH => .next (phaseRespWaitH p s s')
  | .respL => .next (phaseRespL p s s')
  | .respH => .next (phaseRespH p s s')
  | .bitGapH => .next (phaseBitGapH p s s')
  | .bitStartL => .next (phaseBitStartL p s s')
  | .bitDelay => .next (phaseBitDelay p s s')
  | .bitSample => .next (phaseBitSample p s s')
  | .convert => .next (phaseConvert p s s')
  | .reserved _ => .fault .illegalPhase

/-- The synchronizer (10_state.md R26). -/
def synchronize (dqIn : Bool) (s s' : Regs) : Regs := { s' with sync1 := dqIn, sync2 := s.sync1 }

/-- The rest of a cycle, after its transaction has given `h` from `s` (10_state.md R20): a reset cycle puts the block
in RESET_STATE whatever else (R305, R400); otherwise the synchronizer and FsmStep, both reading the present record of
`s` and writing over the transaction's record. The transaction and FsmStep write no field in common, so this order
gives R20's next state (notes/assumptions/6.md). -/
def finishCycle (s h : State) : Host.Outcome State Fault Refusal :=
  if (inputNow s).rst then .next (endCycle { h with regs := Regs.reset })
  else
    match fsmStep s.cfg s.regs (synchronize (inputNow s).dqIn s.regs h.regs) with
    | .next r => .next (endCycle { h with regs := r })
    | .fault f => .fault f
    | .refused x => .refused x

end Sys2Proof.Machine
end

