-- ==== Sys2Proof/Machine/Step.lean ====
section
/-! DEFINITION. One step per rising edge of `clk` (10_state.md R20). -/

namespace Sys2Proof.Machine

/-- One cycle: an instance out of bounds is refused (00_scope.md R8); otherwise the transaction on the host port, then
the rest of the cycle (R20). -/
def step (s : State) : Host.Outcome State Fault Refusal :=
  if s.cfg.ok then
    match exec (fetch s) s with
    | .next h => finishCycle s h
    | .fault f => .fault f
    | .refused r => .refused r
  else .refused .parametersOutOfBounds

/-- The transaction whose bits are `w` placed on the host port for the present cycle, with `rst` low so that the cycle
runs it (notes/assumptions/14.md). The line and every later input stay as they are. -/
def State.withFetchWord (s : State) (nbits w : Nat) : State :=
  placeInputs { inputNow s with rst := false, bus := BitVec.ofNat 36 (w % 2 ^ nbits) } s

end Sys2Proof.Machine
end

