-- ==== Sys2Proof/Safety.lean ====
section
/-! DEFINITION. What counts as a coherent record, the step order of 10_state.md R20 as the spec writes it, runs, and the
terms in which the claims are stated. Nothing here is called by the machine. -/

namespace Sys2Proof.Machine

/-! ## Runs -/

/-- `k` cycles, stopping at the first fault or refusal. -/
def run : Nat → State → Host.Outcome State Fault Refusal
  | 0, s => .next s
  | k + 1, s =>
    match step s with
    | .next t => run k t
    | .fault f => .fault f
    | .refused r => .refused r

/-! ## R20 in the spec's own order -/

/-- HostWrite(s, a, d, s') (43_host_ops.md R181): reads `s`, sets fields of `s'`. -/
def hostWrite (s : Regs) (a : BitVec 3) (d : Word) (s' : Regs) : Regs :=
  if a = 0 then
    if d.getLsbD 0 && s.st == .idle then
      startAcquisition (if d.getLsbD 1 then .dht22 else .dht11) (d.getLsbD 2) s'
    else s'
  else if a = 4 then setLimit (d.extractLsb' 0 16) s'
  else s'

/-- Next(s, in), statement by statement in the order of R20: reset, synchronizer, FsmStep, HostWrite. -/
def ruleNext (p : Params) (i : Inputs) (s : Regs) : Host.Outcome Regs Fault Refusal :=
  if i.rst then .next Regs.reset
  else
    match fsmStep p s (synchronize i.dqIn s s) with
    | .next s' =>
      .next (if i.bus.getLsbD 35 then hostWrite s (i.bus.extractLsb' 32 3) (i.bus.extractLsb' 0 32) s' else s')
    | .fault f => .fault f
    | .refused r => .refused r

/-! ## What one cycle without reset does, whatever the phase -/

/-- The limit after a transaction: WR_TIMEOUT writes it, in any phase (R195), nothing else does (R33). -/
def limitAfter (i : Instr) (old : BitVec 16) : BitVec 16 :=
  match i with
  | .wrTimeout limitUs _ => limitUs
  | _ => old

/-- The word the host holds after the cycle: a read (`bus_we` = 0) takes `bus_rdata` (R52, R53). -/
def takenWord (s : State) : Word := if (inputNow s).bus.getLsbD 35 then s.rdata else busRdata s

/-- A cycle of a legal instance, without reset, in phase `ph`. -/
def runsPhase (s : State) (ph : Phase) : Prop := s.cfg.ok = true ∧ (inputNow s).rst = false ∧ s.regs.st = ph

/-- The record after a cycle in a phase other than IDLE in which the state machine wrote nothing: the synchronizer has
moved (R26) and a limit on the port is stored (R195). -/
def clocked (s : State) : Regs :=
  { s.regs with
    sync1 := (inputNow s).dqIn, sync2 := s.regs.sync1, toLimit := limitAfter (fetch s) s.regs.toLimit }

/-- The cycle completes with record `r`: the next state in full, the model's own fields as well (the host's word, the
inputs to come and the cycle number: notes/assumptions/1.md to 3.md). -/
def completesWith (s : State) (r : Regs) : Prop :=
  step s = .next { cfg := s.cfg, regs := r, rdata := takenWord s, env := s.env.tail, cycle := s.cycle + 1 }

/-- The level-wait phases (R107 to R111): phase, level waited on, successor, error code (R301). -/
def waitRows : List (Phase × Bool × Phase × ErrCode) :=
  [ (.respWaitH, true,  .respL,     .noResponse),
    (.respL,     false, .respH,     .timingError),
    (.respH,     true,  .bitGapH,   .timingError),
    (.bitGapH,   true,  .bitStartL, .timingError),
    (.bitStartL, false, .bitDelay,  .timingError) ]

/-- The timed phases with their durations and successors (R103, R105, R112). -/
def timedRows (p : Params) : List (Phase × Nat × Phase) :=
  [ (.req,      p.durReq,    .settle),
    (.settle,   p.durSettle, .respWaitH),
    (.bitDelay, p.durSample, .bitSample) ]

/-- The order of the phases (R100), with a phase that stays put and the timeout endings (R304). IDLE is left only to
REQ. -/
def Phase.follows : Phase → Phase → Bool
  | .idle, q => q == .idle || q == .req
  | .req, q => q == .req || q == .settle
  | .settle, q => q == .settle || q == .respWaitH
  | .respWaitH, q => q == .respWaitH || q == .respL || q == .idle
  | .respL, q => q == .respL || q == .respH || q == .idle
  | .respH, q => q == .respH || q == .bitGapH || q == .idle
  | .bitGapH, q => q == .bitGapH || q == .bitStartL || q == .idle
  | .bitStartL, q => q == .bitStartL || q == .bitDelay || q == .idle
  | .bitDelay, q => q == .bitDelay || q == .bitSample
  | .bitSample, q => q == .bitGapH || q == .convert
  | .convert, q => q == .idle
  | .reserved _, _ => false

/-! ## The coherent records -/

/-- A phase code 0 to 10 (R38). -/
def Phase.legal : Phase → Bool
  | .reserved _ => false
  | _ => true

/-- `bit_idx` by phase: 0 before the bits, below 40 in the bit loop, 40 in CONVERT (R28, R113). -/
def bitIdxFits (ph : Phase) (n : Nat) : Bool :=
  match ph with
  | .idle => n ≤ 40
  | .req | .settle | .respWaitH | .respL | .respH => n == 0
  | .bitGapH | .bitStartL | .bitDelay | .bitSample => n ≤ 39
  | .convert => n == 40
  | .reserved _ => false

/-- `tcnt` by phase: a timed phase lasts exactly its duration, so its counter stays below it (R25, R102); IDLE and the
one-cycle phases hold 0. -/
def tcntFits (p : Params) (ph : Phase) (n : Nat) : Bool :=
  match ph with
  | .idle | .bitSample | .convert => n == 0
  | .req => n < p.durReq
  | .settle => n < p.durSettle
  | .bitDelay => n < p.durSample
  | .respWaitH | .respL | .respH | .bitGapH | .bitStartL => true
  | .reserved _ => false

/-- The sentinel Reading (R12, R31, R32). -/
def sentinelReading (r : Regs) : Prop := r.temp = Config.sentinel ∧ r.hum = Config.sentinel ∧ r.success = false

/-- No error recorded (R301). -/
def noError (r : Regs) : Prop := r.err = .none ∧ r.errPhase = .idle

/-- IDLE with DONE = 0: no acquisition since reset. -/
def outcomeFresh (r : Regs) : Prop := r.done = false ∧ sentinelReading r ∧ noError r ∧ r.bitIdx = 0 ∧ r.varQ = .dht11

/-- The first row of R300: the checksum passed, and the Reading is the frame's conversion. -/
def outcomePassed (r : Regs) : Prop :=
  r.done = true ∧ r.success = true ∧ noError r ∧ r.bitIdx = 40 ∧ frameOk r.frame = true
    ∧ r.temp = signedWord (convertFrame r.varQ r.frame).1 ∧ r.hum = signedWord (convertFrame r.varQ r.frame).2

/-- The second row of R300: the checksum failed. -/
def outcomeFailed (r : Regs) : Prop :=
  r.done = true ∧ sentinelReading r ∧ noError r ∧ r.bitIdx = 40 ∧ frameOk r.frame = false

/-- The third row of R300: a timeout in RESP_WAIT_H (R301). -/
def outcomeNoResponse (r : Regs) : Prop :=
  r.done = true ∧ sentinelReading r ∧ r.err = .noResponse ∧ r.errPhase = .respWaitH ∧ r.bitIdx = 0

/-- The fourth row of R300: a timeout in RESP_L, RESP_H, BIT_GAP_H or BIT_START_L (R301). -/
def outcomeTimingError (r : Regs) : Prop :=
  r.done = true ∧ sentinelReading r ∧ r.err = .timingError
    ∧ (((r.errPhase = .respL ∨ r.errPhase = .respH) ∧ r.bitIdx = 0)
      ∨ ((r.errPhase = .bitGapH ∨ r.errPhase = .bitStartL) ∧ r.bitIdx.toNat ≤ 39))

/-- A record that the rules allow: the invariant of the state machine. -/
structure Coherent (p : Params) (r : Regs) : Prop where
  /-- R38: only codes 0 to 10. -/
  phaseLegal : r.st.legal = true
  /-- R28. -/
  bits : bitIdxFits r.st r.bitIdx.toNat = true
  /-- R25, R102. -/
  count : tcntFits p r.st r.tcnt.toNat = true
  /-- R113: "An unwritten bit of `frame` stays 0". -/
  frameFits : r.frame.toNat < 2 ^ r.bitIdx.toNat
  /-- R30, R104: after REQ, an acquisition with `pu_q` = 1 has the pull-up on. -/
  pullUp : r.st ≠ .req → r.puQ = true → r.pullEn = true
  /-- R404: during an acquisition the Reading is the sentinel, DONE is 0 and no error is recorded. -/
  whileBusy : r.st ≠ .idle → sentinelReading r ∧ r.done = false ∧ noError r
  /-- R300: at rest, the record is fresh from reset or shows one of the four outcomes. -/
  atRest : r.st = .idle →
    outcomeFresh r ∨ outcomePassed r ∨ outcomeFailed r ∨ outcomeNoResponse r ∨ outcomeTimingError r

/-- A safe run: a legal instance whose record is coherent. -/
def Safe (s : State) : Prop := s.cfg.ok = true ∧ Coherent s.cfg s.regs

/-! ## Lengths of an acquisition -/

/-- The least number of cycles from the first REQ cycle to the CONVERT cycle inclusive (R120). -/
def minCycles (p : Params) : Nat := p.durReq + p.durSettle + 3 + 40 * (p.durSample + 3) + 1

/-- The most cycles of an acquisition with a limit of `n` µs (R319). -/
def maxCycles (p : Params) (n : Nat) : Nat :=
  p.durReq + p.durSettle + 3 * (n * p.clkPerUs) + 40 * (2 * (n * p.clkPerUs) + p.durSample + 1) + 1

end Sys2Proof.Machine
end

