-- ==== Sys2Proof/Certificates/Slice0/Obligations.lean ====
section
/-! DEFINITION. The statements about the DHT acquisition engine, from the numbered rules of spec/. -/

open Sys2Proof Sys2Proof.Machine

/-! ## Encoding -/

/-- Decoding the word of a transaction gives the transaction back, for every transaction with every operand at every
value (30_encoding.md R70 to R72, R76). That the reserved and ignored bits come back as well is the model's choice: it keeps
them as operands (notes/assumptions/16.md). -/
def Obligations.DecodeOfEncodeIsTheTransaction : Prop :=
  ∀ i : Instr, decode (encode i) = i

/-- Encoding what a word decodes to gives the word back: no bit of any of the 2^36 patterns is lost. That it holds of the
bits the block ignores is the model's choice: it keeps them as operands (notes/assumptions/16.md). -/
def Obligations.EncodeOfDecodeIsTheWord : Prop :=
  ∀ w : BusWord, encode (decode w) = w

/-- R71: every 36-bit pattern is hit by exactly one row of the opcode map, the row of the transaction it decodes to,
and the decoder refuses none. -/
def Obligations.EveryPatternHitsExactlyOneRow : Prop :=
  ∀ w : BusWord,
    (opcodeRows.filter (fun r => r.hit w)).map (fun r => r.mnemonic) = [(decode w).mnemonic]
    ∧ decodePattern w.toNat = .ok (decode w)

/-- Words written out from the encodings of R84: the pseudo-instructions, and a word of each remaining kind. -/
def Obligations.WrittenWordsDecodeAsTheSpecSays : Prop :=
  decode 0x800000001#36 = .acquire .dht11 false 0
  ∧ decode 0x800000003#36 = .acquire .dht22 false 0
  ∧ decode 0x800000005#36 = .acquire .dht11 true 0
  ∧ decode 0x800000007#36 = .acquire .dht22 true 0
  ∧ decode 0xC000003E8#36 = .wrTimeout 1000 0
  ∧ decode 0x000000000#36 = .rdCtrl 0
  ∧ decode 0x100000000#36 = .rdStatus 0
  ∧ decode 0x300000000#36 = .rdHum 0
  ∧ decode 0x800000006#36 = .ctrlNop 3
  ∧ decode 0xF00000001#36 = .wrRsvd7 1

/-! ## Reset and the instance -/

/-- R36 and R305: a cycle with `rst` = 1 puts every field at its reset value, whatever the phase (a reserved one too),
the line, the timeout and the host's transaction. -/
def Obligations.ResetCycleGivesResetState : Prop :=
  ∀ s : State, s.cfg.ok = true → (inputNow s).rst = true →
    ∃ t, step s = .next t ∧ t.regs.st = .idle ∧ t.regs.tcnt = 0 ∧ t.regs.sync1 = true ∧ t.regs.sync2 = true
      ∧ t.regs.frame = 0 ∧ t.regs.bitIdx = 0 ∧ t.regs.varQ = .dht11 ∧ t.regs.puQ = false ∧ t.regs.pullEn = false
      ∧ t.regs.temp = 0xFFFE79C4#32 ∧ t.regs.temp.toInt = -99900
      ∧ t.regs.hum = 0xFFFE79C4#32 ∧ t.regs.hum.toInt = -99900
      ∧ t.regs.success = false ∧ t.regs.done = false ∧ t.regs.err = .none ∧ t.regs.errPhase.code = 0
      ∧ t.regs.toLimit = 0

/-- R401: what the host reads from the record that a reset leaves, at each of the eight addresses. -/
def Obligations.ReadsAfterResetGiveTheListedValues : Prop :=
  ∀ (s : State) (d : Word), s.regs = State.reset.regs →
    exec (.rdCtrl d) s = .next { s with rdata := 0x00000000#32 }
    ∧ exec (.rdStatus d) s = .next { s with rdata := 0x00000000#32 }
    ∧ exec (.rdTemp d) s = .next { s with rdata := 0xFFFE79C4#32 }
    ∧ exec (.rdHum d) s = .next { s with rdata := 0xFFFE79C4#32 }
    ∧ exec (.rdTimeout d) s = .next { s with rdata := 0x00000000#32 }
    ∧ exec (.rdRsvd5 d) s = .next { s with rdata := 0x00000000#32 }
    ∧ exec (.rdRsvd6 d) s = .next { s with rdata := 0x00000000#32 }
    ∧ exec (.rdRsvd7 d) s = .next { s with rdata := 0x00000000#32 }

/-- The bounds of R8, spelled out, and that an instance which breaks one is refused in every cycle (in a reset cycle too:
the model's choice, notes/assumptions/17.md). -/
def Obligations.InstanceOutOfBoundsIsRefused : Prop :=
  (∀ p : Params, p.ok = true ↔
    (1 ≤ p.clkPerUs ∧ p.clkPerUs ≤ 65536 ∧ 1 ≤ p.tReqUs ∧ 1 ≤ p.tSettleUs ∧ 1 ≤ p.tSampleUs
      ∧ p.tReqUs * p.clkPerUs ≤ 4294967296 ∧ p.tSettleUs * p.clkPerUs ≤ 4294967296
      ∧ p.tSampleUs * p.clkPerUs ≤ 4294967296 ∧ 2 ≤ p.tSettleUs * p.clkPerUs))
  ∧ ∀ s : State, s.cfg.ok = false → step s = .refused .parametersOutOfBounds

/-! ## The read transactions -/

/-- R184 and R196: RD_CTRL and the reserved reads give 0, in every state, and change nothing of the block; each with its
encoding. -/
def Obligations.CtrlAndReservedReadsGiveZero : Prop :=
  ∀ (d : Word) (s : State),
    decode (0x0#4 ++ d) = .rdCtrl d ∧ exec (.rdCtrl d) s = .next { s with rdata := 0 }
    ∧ decode (0x5#4 ++ d) = .rdRsvd5 d ∧ exec (.rdRsvd5 d) s = .next { s with rdata := 0 }
    ∧ decode (0x6#4 ++ d) = .rdRsvd6 d ∧ exec (.rdRsvd6 d) s = .next { s with rdata := 0 }
    ∧ decode (0x7#4 ++ d) = .rdRsvd7 d ∧ exec (.rdRsvd7 d) s = .next { s with rdata := 0 }

/-- R73: RD_STATUS completes with the word of the formula of R73, and changes nothing of the block; no write changes a
field of STATUS through its address. -/
def Obligations.StatusReadIsTheFormula : Prop :=
  ∀ (d : Word) (s : State),
    exec (.rdStatus d) s = .next { s with
      rdata :=
        (s.regs.bitIdx.setWidth 32 <<< 16) ||| (s.regs.errPhase.code.setWidth 32 <<< 12)
          ||| (s.regs.st.code.setWidth 32 <<< 8)
          ||| ((if s.regs.pullEn then 1#32 else 0#32) <<< 6)
          ||| ((if s.regs.varQ = .dht22 then 1#32 else 0#32) <<< 5)
          ||| (s.regs.err.code.setWidth 32 <<< 3)
          ||| ((if s.regs.success then 1#32 else 0#32) <<< 2)
          ||| ((if s.regs.done then 1#32 else 0#32) <<< 1)
          ||| (if s.regs.st = .idle then 0#32 else 1#32) }
    ∧ exec (.wrStatus d) s = .next s

/-- R74 and R75: RD_TEMP and RD_HUM complete with the signed register modulo 2^32, whatever the success flag; neither
register can be written through its address; a converted humidity is never negative. -/
def Obligations.ReadingRegistersReadModulo2Pow32 : Prop :=
  (∀ (d : Word) (s : State), ∃ w : Word, (w.toNat : Int) = s.regs.temp.toInt % 2 ^ 32
    ∧ exec (.rdTemp d) s = .next { s with rdata := w } ∧ exec (.wrTemp d) s = .next s)
  ∧ (∀ (d : Word) (s : State), ∃ w : Word, (w.toNat : Int) = s.regs.hum.toInt % 2 ^ 32
    ∧ exec (.rdHum d) s = .next { s with rdata := w } ∧ exec (.wrHum d) s = .next s)
  ∧ ∀ b0 b1 : Byte, 0 ≤ hum11 b0 b1 ∧ 0 ≤ hum22 b0 b1

/-- R76 and R194: WR_TIMEOUT stores DATA[15:0] in any phase and ignores DATA[31:16]; RD_TIMEOUT gives the limit
zero-extended; every other field is as before. -/
def Obligations.TimeoutRegisterReadsAndWrites : Prop :=
  ∀ (d : Word) (s : State),
    decode (0x4#4 ++ d) = .rdTimeout d
    ∧ decode (0xC#4 ++ d) = .wrTimeout (d.extractLsb' 0 16) (d.extractLsb' 16 16)
    ∧ (∃ w : Word, w.toNat = s.regs.toLimit.toNat ∧ exec (.rdTimeout d) s = .next { s with rdata := w })
    ∧ ∀ limitUs rsvd : BitVec 16,
      exec (.wrTimeout limitUs rsvd) s = .next { s with regs := { s.regs with toLimit := limitUs } }

/-! ## The write transactions -/

/-- R183, R188, R189, R190, R197: CTRL_NOP, and writes to STATUS, TEMP, HUM and the reserved addresses, change nothing at
all; each with its encoding. -/
def Obligations.IgnoredWritesChangeNothing : Prop :=
  ∀ (d : Word) (s : State),
    (d.getLsbD 0 = false → decode (0x8#4 ++ d) = .ctrlNop (d.extractLsb' 1 31))
    ∧ (∀ x : BitVec 31, exec (.ctrlNop x) s = .next s)
    ∧ decode (0x9#4 ++ d) = .wrStatus d ∧ exec (.wrStatus d) s = .next s
    ∧ decode (0xA#4 ++ d) = .wrTemp d ∧ exec (.wrTemp d) s = .next s
    ∧ decode (0xB#4 ++ d) = .wrHum d ∧ exec (.wrHum d) s = .next s
    ∧ decode (0xD#4 ++ d) = .wrRsvd5 d ∧ exec (.wrRsvd5 d) s = .next s
    ∧ decode (0xE#4 ++ d) = .wrRsvd6 d ∧ exec (.wrRsvd6 d) s = .next s
    ∧ decode (0xF#4 ++ d) = .wrRsvd7 d ∧ exec (.wrRsvd7 d) s = .next s

/-- R101: an ACQUIRE in IDLE completes with the fields R101 lists at the values it gives; every other field, `pull_en`
and `to_limit` among them, is as before. In any other phase it does none of this. -/
def Obligations.AcquireInIdleStartsAnAcquisition : Prop :=
  ∀ (s : State) (v : SensorVariant) (p : Bool) (rsvd : BitVec 29),
    (s.regs.st = .idle → exec (.acquire v p rsvd) s = .next { s with
      regs := { s.regs with
        st := .req, tcnt := 0, varQ := v, puQ := p, frame := 0, bitIdx := 0,
        temp := BitVec.ofInt 32 (-99900), hum := BitVec.ofInt 32 (-99900), success := false,
        done := false, err := .none, errPhase := .idle } })
    ∧ (s.regs.st ≠ .idle → exec (.acquire v p rsvd) s = .next s)

/-- R182: a word to CTRL with bit 0 set is an ACQUIRE with VARIANT = d[1] and PULLUP = d[2], d[31:3] ignored; in IDLE it
starts the acquisition, and in every other phase (CONVERT too) it changes nothing. -/
def Obligations.AcquireIsAcceptedInIdleOnly : Prop :=
  ∀ (d : Word) (s : State), d.getLsbD 0 = true →
    decode (0x8#4 ++ d)
      = .acquire (if d.getLsbD 1 then .dht22 else .dht11) (d.getLsbD 2) (d.extractLsb' 3 29)
    ∧ (s.regs.st = .idle → exec (decode (0x8#4 ++ d)) s
        = .next (updateRegs (startAcquisition (if d.getLsbD 1 then .dht22 else .dht11) (d.getLsbD 2)) s))
    ∧ (s.regs.st ≠ .idle → exec (decode (0x8#4 ++ d)) s = .next s)

/-- R182 a, R406: over a whole cycle, a START while busy leaves no trace: the next state is that of the same cycle with
a CTRL_NOP in its place. -/
def Obligations.DroppedStartLeavesNoTrace : Prop :=
  ∀ (s : State) (v : SensorVariant) (p : Bool) (rsvd : BitVec 29) (x : BitVec 31), s.regs.st ≠ .idle →
    step (placeInputs { inputNow s with bus := encode (.acquire v p rsvd) } s)
      = step (placeInputs { inputNow s with bus := encode (.ctrlNop x) } s)

/-- Frame over all transactions (R58, R181, R300): every transaction completes; it never touches the instance, the
inputs or the cycle number; a read leaves the block alone; a write leaves the host's word, the model's own field
(notes/assumptions/3.md), alone; and of the writes only
ACQUIRE, in IDLE, and WR_TIMEOUT, of `to_limit`, touch the block. -/
def Obligations.EveryTransactionCompletesWithItsFrame : Prop :=
  ∀ (i : Instr) (s : State), ∃ t, exec i s = .next t
    ∧ t.cfg = s.cfg ∧ t.env = s.env ∧ t.cycle = s.cycle
    ∧ ((encode i).getLsbD 35 = false → t.regs = s.regs)
    ∧ ((encode i).getLsbD 35 = true → t.rdata = s.rdata)
    ∧ ((∀ v p r, i ≠ .acquire v p r) → t.regs = { s.regs with toLimit := limitAfter i s.regs.toLimit })
    ∧ (s.regs.st ≠ .idle → t.regs = { s.regs with toLimit := limitAfter i s.regs.toLimit })

/-! ## One step -/

/-- A step runs the decoded transaction: the step of a legal instance is `exec` of what the port's word decodes to,
followed by the rest of the cycle. That order is the model's choice (notes/assumptions/6.md): R20 puts HostWrite last, and
`StepIsNextInTheOrderOfTheSpec` says that the step is R20's all the same. And a word placed for fetching is that word, in a
cycle without reset, on an unchanged line (the placing is the model's choice, notes/assumptions/14.md). -/
def Obligations.StepRunsTheDecodedTransaction : Prop :=
  (∀ (s h : State) (i : Instr), s.cfg.ok = true → decode (inputNow s).bus = i → exec i s = .next h →
    step s = finishCycle s h)
  ∧ ∀ (s : State) (w : BusWord),
    fetch (s.withFetchWord 36 w.toNat) = decode w
    ∧ (inputNow (s.withFetchWord 36 w.toNat)).rst = false
    ∧ (inputNow (s.withFetchWord 36 w.toNat)).dqIn = (inputNow s).dqIn
    ∧ (s.withFetchWord 36 w.toNat).regs = s.regs

/-- R20: the step is Next(s, in) in the order the spec writes (reset, synchronizer, FsmStep, HostWrite, the last two
both reading `s`), for every state and every input; the instance does not change. What it fixes of the model's own fields is
the model's choice: the inputs and the cycle number move on by one (notes/assumptions/1.md, 2.md), and the host holds the
word of a read (3.md). -/
def Obligations.StepIsNextInTheOrderOfTheSpec : Prop :=
  ∀ s : State, s.cfg.ok = true →
    (∀ r, ruleNext s.cfg (inputNow s) s.regs = .next r → completesWith s r)
    ∧ (∀ f, ruleNext s.cfg (inputNow s) s.regs = .fault f → step s = .fault f)
    ∧ ∀ x, ruleNext s.cfg (inputNow s) s.regs ≠ .refused x

/-- R53: a read transaction gives the host ReadValue(s(t), a) of the present state, before any update of the cycle; in a
reset cycle too (from R400, notes/assumptions/12.md). That the host takes the value of every cycle with WE = 0 is the model's
choice (notes/assumptions/5.md), and so is that a write leaves the host's word as it was (notes/assumptions/3.md). -/
def Obligations.ReadsSeeThePresentState : Prop :=
  ∀ s t : State, step s = .next t →
    ((inputNow s).bus.getLsbD 35 = false → t.rdata = readValue s.regs ((inputNow s).bus.extractLsb' 32 3))
    ∧ ((inputNow s).bus.getLsbD 35 = true → t.rdata = s.rdata)

/-- R26: the two flops move in every phase; the level the state machine sees is `dq_in` of two cycles before; and `dq_in`
reaches nothing else of the next record. -/
def Obligations.SynchronizerDelaysTheLineTwoCycles : Prop :=
  ∀ s t : State, step s = .next t → (inputNow s).rst = false →
    t.regs.sync1 = (inputNow s).dqIn ∧ t.regs.sync2 = s.regs.sync1
    ∧ (∀ u, step t = .next u → (inputNow t).rst = false → u.regs.sync2 = (inputNow s).dqIn)
    ∧ ∀ (b : Bool) (u : State), step (placeInputs { inputNow s with dqIn := b } s) = .next u →
        u.regs = { t.regs with sync1 := b }

/-! ## The phases, one cycle each -/

/-- R114: in IDLE, without a START, the cycle writes nothing but the synchronizer and a limit on the port; the line does
not matter, and `dq_oe` is 0. With an ACQUIRE the next phase is REQ. -/
def Obligations.IdleWritesNothing : Prop :=
  ∀ s : State, runsPhase s .idle →
    dqOe s.regs = false
    ∧ ((∀ v p r, fetch s ≠ .acquire v p r) → completesWith s (clocked s))
    ∧ ∀ v p r, fetch s = .acquire v p r → ∃ t, step s = .next t ∧ t.regs.st = .req

/-- R102: one cycle of REQ, SETTLE and BIT_DELAY, in full. A phase stays while `tcnt + 1 < DUR`, counting exactly, and
otherwise enters its successor with `tcnt` = 0; on leaving REQ, `pull_en` is set when `pu_q` is (R104). -/
def Obligations.TimedPhaseCycle : Prop :=
  ∀ s : State, ∀ row ∈ timedRows s.cfg, runsPhase s row.1 →
    (row.2.1 ≤ s.regs.tcnt.toNat + 1 →
      completesWith s { clocked s with
        st := row.2.2, tcnt := 0, pullEn := s.regs.pullEn || (row.1 == .req && s.regs.puQ) })
    ∧ (s.regs.tcnt.toNat + 1 < row.2.1 →
      ∃ n : BitVec 32, n.toNat = s.regs.tcnt.toNat + 1 ∧ completesWith s { clocked s with tcnt := n })

/-- R106, with R301 for the codes, R303 for the check and R304 for the ending: one cycle of each wait phase, in full. -/
def Obligations.WaitPhaseCycle : Prop :=
  ∀ s : State, ∀ row ∈ waitRows, runsPhase s row.1 →
    (s.regs.sync2 ≠ row.2.1 → completesWith s { clocked s with st := row.2.2.1, tcnt := 0 })
    ∧ (s.regs.sync2 = row.2.1 → s.regs.toLimit ≠ 0 → s.regs.toLimit.toNat * s.cfg.clkPerUs ≤ s.regs.tcnt.toNat + 1 →
      completesWith s { clocked s with
        err := row.2.2.2, errPhase := row.1, done := true, st := .idle, tcnt := 0 })
    ∧ (s.regs.sync2 = row.2.1 →
      ¬ (s.regs.toLimit ≠ 0 ∧ s.regs.toLimit.toNat * s.cfg.clkPerUs ≤ s.regs.tcnt.toNat + 1) →
      ∃ n : BitVec 32, n.toNat = min (s.regs.tcnt.toNat + 1) (2 ^ 32 - 1)
        ∧ completesWith s { clocked s with tcnt := n })

/-- R113: one BIT_SAMPLE cycle, in full, the frame as a number modulo 2^40. In a record whose count is below 40 the count
does not wrap; `EveryStepKeepsTheMachineSafe` keeps every run in such records. -/
def Obligations.BitSampleCycle : Prop :=
  ∀ s : State, runsPhase s .bitSample → s.regs.bitIdx.toNat ≤ 39 →
    ∃ (f : Frame) (n : BitVec 6),
      f.toNat = (2 * s.regs.frame.toNat + (if s.regs.sync2 then 1 else 0)) % 2 ^ 40
      ∧ n.toNat = s.regs.bitIdx.toNat + 1
      ∧ completesWith s { clocked s with
          frame := f, bitIdx := n, tcnt := 0,
          st := if s.regs.bitIdx.toNat = 39 then .convert else .bitGapH }

/-- R146 with R140, R144 and the formulas of R161 to R164: one CONVERT cycle, in full, from the frame as a number. -/
def Obligations.ConvertCycle : Prop :=
  ∀ (s : State) (b0 b1 b2 b3 b4 : Nat), runsPhase s .convert →
    b0 = s.regs.frame.toNat / 2 ^ 32 % 256 → b1 = s.regs.frame.toNat / 2 ^ 24 % 256 →
    b2 = s.regs.frame.toNat / 2 ^ 16 % 256 → b3 = s.regs.frame.toNat / 2 ^ 8 % 256 →
    b4 = s.regs.frame.toNat % 256 →
    ((b0 + b1 + b2 + b3) % 256 ≠ b4 →
      completesWith s { clocked s with success := false, done := true, st := .idle, tcnt := 0 })
    ∧ ((b0 + b1 + b2 + b3) % 256 = b4 →
      ∃ th hh : Int, completesWith s { clocked s with
          temp := BitVec.ofInt 32 th, hum := BitVec.ofInt 32 hh,
          success := true, done := true, st := .idle, tcnt := 0 }
        ∧ (s.regs.varQ = .dht11 → th = 100 * b2 + b3 ∧ hh = 100 * b0 + b1)
        ∧ (s.regs.varQ = .dht22 → hh = 10 * (256 * b0 + b1)
          ∧ (b2 < 128 → th = 10 * (256 * b2 + b3))
          ∧ (128 ≤ b2 → th = -(10 * (256 * (b2 - 128 : Nat) + b3)))))

/-- R104: at the edge that ends REQ the line is released and, when `pu_q` is 1, `pull_en` is set; with `pu_q` = 0 it is
left as it was, and it is never cleared. -/
def Obligations.ReqEndReleasesTheLine : Prop :=
  ∀ s : State, runsPhase s .req → s.cfg.tReqUs * s.cfg.clkPerUs ≤ s.regs.tcnt.toNat + 1 →
    ∃ t, step s = .next t ∧ dqOe s.regs = true ∧ dqOe t.regs = false ∧ t.regs.st = .settle
      ∧ (s.regs.puQ = true → t.regs.pullEn = true) ∧ (s.regs.puQ = false → t.regs.pullEn = s.regs.pullEn)

/-! ## Rules over the whole machine -/

/-- R38: a step from a reserved phase code is the fault "illegal phase", never a transition; reset and the transitions
put only codes 0 to 10 into `st`. -/
def Obligations.ReservedPhaseFaultsAndIsNeverEntered : Prop :=
  (∀ (s : State) (k : Fin 5), runsPhase s (.reserved k) → step s = .fault .illegalPhase)
  ∧ (∀ s t : State, step s = .next t → t.regs.st.legal = true)
  ∧ State.reset.regs.st.legal = true

/-- R100: the phases follow one another in the order of R100, with the timeout endings from the wait phases and nothing
else; IDLE is left only by a START. -/
def Obligations.PhasesFollowTheFixedOrder : Prop :=
  ∀ s t : State, step s = .next t → (inputNow s).rst = false →
    s.regs.st.follows t.regs.st = true
    ∧ (s.regs.st = .idle → t.regs.st ≠ .idle → ∃ v p r, fetch s = .acquire v p r)
    ∧ (s.regs.st ≠ .convert → s.regs.st ≠ .idle → t.regs.st = .idle →
        t.regs.err ≠ .none ∧ t.regs.errPhase = s.regs.st)

/-- R29, R30, R33: who writes the sticky fields. `var_q` and `pu_q` change only by an accepted START, to its operands;
`pull_en` is set only at the end of a REQ with `pu_q` = 1 and never cleared; `to_limit` changes only by WR_TIMEOUT. -/
def Obligations.StickyFieldsChangeOnlyAsListed : Prop :=
  ∀ s t : State, step s = .next t → (inputNow s).rst = false →
    (t.regs.varQ ≠ s.regs.varQ ∨ t.regs.puQ ≠ s.regs.puQ →
      s.regs.st = .idle ∧ ∃ r, fetch s = .acquire t.regs.varQ t.regs.puQ r)
    ∧ (s.regs.pullEn = true → t.regs.pullEn = true)
    ∧ (s.regs.pullEn = false → t.regs.pullEn = true → s.regs.st = .req ∧ t.regs.st = .settle ∧ s.regs.puQ = true)
    ∧ t.regs.toLimit = limitAfter (fetch s) s.regs.toLimit

/-- R147: the Reading changes only as a whole, at a START to the sentinel Reading and at CONVERT to the converted one,
with `done` and BUSY at that same edge. -/
def Obligations.ReadingCommitsAtOneEdge : Prop :=
  ∀ s t : State, step s = .next t → (inputNow s).rst = false →
    (t.regs.temp ≠ s.regs.temp ∨ t.regs.hum ≠ s.regs.hum ∨ t.regs.success ≠ s.regs.success) →
    (s.regs.st = .idle ∧ busy t.regs = true ∧ t.regs.done = false ∧ sentinelReading t.regs)
    ∨ (s.regs.st = .convert ∧ busy t.regs = false ∧ t.regs.done = true ∧ t.regs.success = frameOk s.regs.frame
      ∧ (t.regs.success = true → t.regs.temp = signedWord (convertFrame s.regs.varQ s.regs.frame).1
          ∧ t.regs.hum = signedWord (convertFrame s.regs.varQ s.regs.frame).2)
      ∧ (t.regs.success = false → t.regs.temp = s.regs.temp ∧ t.regs.hum = s.regs.hum))

/-- R307: within a cycle a level change beats a timeout; a START in a busy cycle has no effect, and IDLE has no event of
its own; whatever the host writes in the cycle of a check, TIMEOUT included, the check's outcome is the same. -/
def Obligations.PriorityWithinOneCycle : Prop :=
  (∀ s : State, ∀ row ∈ waitRows, runsPhase s row.1 → s.regs.sync2 ≠ row.2.1 → timeoutCheck s.cfg s.regs = true →
    ∃ t, step s = .next t ∧ t.regs.st = row.2.2.1 ∧ t.regs.err = s.regs.err ∧ t.regs.done = s.regs.done)
  ∧ (∀ (s : State) (v : SensorVariant) (p : Bool) (r : BitVec 29), s.regs.st ≠ .idle →
    exec (.acquire v p r) s = .next s)
  ∧ (∀ (p : Params) (s s' : Regs), s.st = .idle → fsmStep p s s' = .next s')
  ∧ ∀ (s t u : State) (w : BusWord), s.regs.st ≠ .idle → (inputNow s).rst = false → step s = .next t →
    step (placeInputs { inputNow s with bus := w } s) = .next u →
    u.regs = { t.regs with toLimit := limitAfter (decode w) s.regs.toLimit }

/-- R407 with R195: a limit written in a wait phase acts from the next cycle's check, against the count the phase has
already reached. If the level still holds and the limit has been reached, that cycle ends the acquisition; if the level
changes in it, the phase moves on. -/
def Obligations.NewLimitActsInTheNextCycle : Prop :=
  ∀ (s : State) (limitUs rsvd : BitVec 16), ∀ row ∈ waitRows,
    runsPhase s row.1 → s.regs.sync2 = row.2.1 → timeoutCheck s.cfg s.regs = false →
    fetch s = .wrTimeout limitUs rsvd → limitUs ≠ 0 → limitUs.toNat * s.cfg.clkPerUs ≤ s.regs.tcnt.toNat + 2 →
    ∃ t, step s = .next t ∧ t.regs.st = row.1 ∧ t.regs.toLimit = limitUs
      ∧ ((inputNow t).rst = false → ∃ u, step t = .next u
        ∧ (s.regs.sync1 = row.2.1 → u.regs.st = .idle ∧ u.regs.err = row.2.2.2 ∧ u.regs.errPhase = row.1)
        ∧ (s.regs.sync1 ≠ row.2.1 → u.regs.st = row.2.2.1 ∧ u.regs.err = s.regs.err))

/-- R118: IDLE, REQ, SETTLE, BIT_DELAY and CONVERT never read the synchronized line, and BIT_SAMPLE reads it only as the
bit value: two machines that differ in it alone go on alike. -/
def Obligations.LineIsReadOnlyInWaitPhasesAndSamples : Prop :=
  ∀ (s t u : State) (b : Bool), step s = .next t →
    step { s with regs := { s.regs with sync2 := b } } = .next u →
    (s.regs.st = .idle ∨ s.regs.st = .req ∨ s.regs.st = .settle ∨ s.regs.st = .bitDelay ∨ s.regs.st = .convert → u = t)
    ∧ (s.regs.st = .bitSample → ∀ j : Nat, 0 < j → u.regs.frame.getLsbD j = t.regs.frame.getLsbD j)
    ∧ (s.regs.st = .bitSample → { u with regs := { u.regs with frame := t.regs.frame } } = t)

/-- R23 (host view), R27, D29: what the host reads does not depend on `tcnt`, the synchronizer, `frame` or `pu_q`: no
transaction tells two such machines apart. -/
def Obligations.HiddenFieldsCannotBeRead : Prop :=
  ∀ (s : State) (i : Instr) (n : BitVec 32) (b1 b2 pu : Bool) (f : Frame) (t u : State),
    exec i s = .next t →
    exec i { s with regs := { s.regs with tcnt := n, sync1 := b1, sync2 := b2, puQ := pu, frame := f } } = .next u →
    u.rdata = t.rdata

/-- R149: each acquisition replaces the whole Reading. A START leaves the sentinel Reading whatever stood there, and
after CONVERT two coherent machines of one variant and frame show the same Reading, whatever went before. -/
def Obligations.EachAcquisitionReplacesTheReading : Prop :=
  (∀ (s t : State) (v : SensorVariant) (p : Bool) (r : BitVec 29), s.regs.st = .idle →
    exec (.acquire v p r) s = .next t → sentinelReading t.regs)
  ∧ ∀ s u t w : State, Safe s → Safe u → s.regs.st = .convert → u.regs.st = .convert →
    s.regs.frame = u.regs.frame → s.regs.varQ = u.regs.varQ →
    (inputNow s).rst = false → (inputNow u).rst = false → step s = .next t → step u = .next w →
    t.regs.temp = w.regs.temp ∧ t.regs.hum = w.regs.hum ∧ t.regs.success = w.regs.success

/-! ## Checksum, packing, converter -/

/-- R142, R143, R145: the accumulator stays in 10 bits, the two conditional subtractions are reduction modulo 256, and the
verdict is that the low byte of the sum equals byte 4. -/
def Obligations.ChecksumReductionIsModulo256 : Prop :=
  (∀ b0 b1 b2 b3 : Byte, checksumSum b0 b1 b2 b3 ≤ 1020)
  ∧ (∀ sum : Nat, sum ≤ 1020 →
    checksumReduce sum = sum % 256
    ∧ checksumReduce sum = (let s1 := if 512 ≤ sum then sum - 512 else sum; if 256 ≤ s1 then s1 - 256 else s1))
  ∧ ∀ b0 b1 b2 b3 b4 : Byte, checksumOk b0 b1 b2 b3 b4 = true ↔
    (b0.toNat + b1.toNat + b2.toNat + b3.toNat) % 256 = b4.toNat

/-- R141: of 40 bits sampled from any frame, bit i sits at `frame[39 - i]`, which is bit `7 - (i mod 8)` of byte
`b(i div 8)`. -/
def Obligations.SampledBitsArePackedMsbFirst : Prop :=
  ∀ (f0 : Frame) (bits : List Bool) (i : Nat) (h : i < bits.length), bits.length = 40 →
    let f := bits.foldl shiftIn f0
    f.getLsbD (39 - i) = bits[i]
    ∧ ([byte0 f, byte1 f, byte2 f, byte3 f, byte4 f].getD (i / 8) 0).getLsbD (7 - i % 8) = bits[i]

/-- R166: the converter's ranges; every result is held exactly by a signed 32-bit register; in a coherent machine a
negative HUM, and a negative TEMP with VARIANT = 0, is the sentinel. -/
def Obligations.ConverterResultsFitTheirRegisters : Prop :=
  (∀ b0 b1 : Byte,
    0 ≤ hum11 b0 b1 ∧ hum11 b0 b1 ≤ 25755 ∧ 0 ≤ temp11 b0 b1 ∧ temp11 b0 b1 ≤ 25755
    ∧ 0 ≤ hum22 b0 b1 ∧ hum22 b0 b1 ≤ 655350 ∧ -327670 ≤ temp22 b0 b1 ∧ temp22 b0 b1 ≤ 327670
    ∧ (signedWord (hum11 b0 b1)).toInt = hum11 b0 b1 ∧ (signedWord (temp11 b0 b1)).toInt = temp11 b0 b1
    ∧ (signedWord (hum22 b0 b1)).toInt = hum22 b0 b1 ∧ (signedWord (temp22 b0 b1)).toInt = temp22 b0 b1)
  ∧ ∀ s : State, Safe s →
    (s.regs.hum.toInt < 0 → s.regs.hum.toInt = -99900)
    ∧ (s.regs.varQ = .dht11 → s.regs.temp.toInt < 0 → s.regs.temp.toInt = -99900)

/-- R169: the DHT22 formula can give exactly the sentinel, with a passing checksum and SUCCESS = 1. -/
def Obligations.SentinelCanBeAGoodTemperature : Prop :=
  magnitude22 0xA7 0x06 = 9990 ∧ temp22 0xA7 0x06 = -99900 ∧ checksumOk 0 0 0xA7 0x06 0xAD = true
  ∧ ∀ s : State, runsPhase s .convert → s.regs.varQ = .dht22 → s.regs.frame = 0x0000A706AD#40 →
    ∃ t, step s = .next t ∧ t.regs.temp = 0xFFFE79C4#32 ∧ t.regs.hum = 0 ∧ t.regs.success = true

/-! ## The invariant -/

/-- The reset state is safe: a legal instance with a coherent record (R36). It holds for every legal
instance; `CLK_PER_US` = 1 in `State.reset` is the model's choice (notes/assumptions/4.md). -/
def Obligations.ResetStateIsSafe : Prop :=
  Safe State.reset ∧ ∀ p : Params, p.ok = true → Safe (State.resetOf p)

/-- Every step from a safe state keeps it safe, for every input: phase codes legal (R38), `bit_idx` and `tcnt` in the range
of their phase (R25, R28), the unsampled frame bits 0 (R113), the sentinel Reading while busy (R404), one of the four
outcomes at rest (R300), the pull-up on after REQ (R104). -/
def Obligations.EveryStepKeepsTheMachineSafe : Prop :=
  ∀ s t : State, Safe s → step s = .next t → Safe t

/-- A safe machine never stops: no fault and no refusal, whatever the inputs. -/
def Obligations.SafeMachineAlwaysSteps : Prop :=
  ∀ s : State, Safe s → ∃ t, step s = .next t

/-- R300: an acquisition that ends without reset ends in exactly one of the four listed ways; CONVERT ends it by the
checksum and a wait phase by a timeout. -/
def Obligations.AcquisitionEndsInOneOfFourWays : Prop :=
  ∀ s t : State, Safe s → step s = .next t → (inputNow s).rst = false →
    s.regs.st ≠ .idle → t.regs.st = .idle →
    (s.regs.st = .convert ∧ (outcomePassed t.regs ∨ outcomeFailed t.regs))
    ∨ (s.regs.st = .respWaitH ∧ outcomeNoResponse t.regs)
    ∨ ((s.regs.st = .respL ∨ s.regs.st = .respH ∨ s.regs.st = .bitGapH ∨ s.regs.st = .bitStartL)
      ∧ outcomeTimingError t.regs ∧ t.regs.bitIdx = s.regs.bitIdx)

/-! ## Many cycles -/

/-- R102, R420: a timed phase entered with `tcnt` = 0 lasts exactly its duration, whatever the line and the host do. -/
def Obligations.TimedPhaseLastsExactlyItsDuration : Prop :=
  ∀ s : State, ∀ row ∈ timedRows s.cfg, s.cfg.ok = true → s.regs.st = row.1 → s.regs.tcnt = 0 →
    (∀ j, j < row.2.1 → (inputAt s j).rst = false) →
    (∀ k, k < row.2.1 → ∃ t, run k s = .next t ∧ t.regs.st = row.1 ∧ t.regs.tcnt.toNat = k)
    ∧ ∃ t, run row.2.1 s = .next t ∧ t.regs.st = row.2.2 ∧ t.regs.tcnt = 0

/-- R35, R421: a START accepted in the present cycle pulls the line low in exactly the DUR_REQ cycles that follow. -/
def Obligations.LineIsPulledLowExactlyDurReqCycles : Prop :=
  ∀ (s : State) (v : SensorVariant) (p : Bool) (r : BitVec 29), runsPhase s .idle → fetch s = .acquire v p r →
    (∀ j, j ≤ s.cfg.durReq → (inputAt s j).rst = false) →
    dqOe s.regs = false
    ∧ (∀ k, 1 ≤ k → k ≤ s.cfg.durReq → ∃ t, run k s = .next t ∧ dqOe t.regs = true)
    ∧ ∃ t, run (s.cfg.durReq + 1) s = .next t ∧ dqOe t.regs = false ∧ t.regs.st = .settle

/-- R303: with a limit of N µs that does not change, a wait phase entered with `tcnt` = 0 whose level holds lasts exactly
N × CLK_PER_US cycles and then ends the acquisition with its code and its phase. -/
def Obligations.TimeoutFiresAfterExactlyTheLimit : Prop :=
  ∀ (s : State) (limitUs : BitVec 16) (total : Nat), ∀ row ∈ waitRows,
    s.cfg.ok = true → s.regs.st = row.1 → s.regs.tcnt = 0 → s.regs.toLimit = limitUs → limitUs ≠ 0 →
    total = limitUs.toNat * s.cfg.clkPerUs →
    s.regs.sync2 = row.2.1 → (1 < total → s.regs.sync1 = row.2.1) →
    (∀ j, j + 2 < total → (inputAt s j).dqIn = row.2.1) →
    (∀ j, j < total → (inputAt s j).rst = false) →
    (∀ j, j + 1 < total → limitAfter (decode (inputAt s j).bus) limitUs = limitUs) →
    (∀ k, k < total → ∃ t, run k s = .next t ∧ t.regs.st = row.1 ∧ t.regs.tcnt.toNat = k)
    ∧ ∃ t, run total s = .next t ∧ t.regs.st = .idle ∧ t.regs.done = true
      ∧ t.regs.err = row.2.2.2 ∧ t.regs.errPhase = row.1

/-- R119: with the timeout off, a wait phase whose level holds goes on for any number of cycles: BUSY stays 1 and the
Reading stays the sentinel. -/
def Obligations.HeldLevelHangsWithTheTimeoutOff : Prop :=
  ∀ (n : Nat) (s : State), ∀ row ∈ waitRows, Safe s → s.regs.st = row.1 → s.regs.toLimit = 0 →
    s.regs.sync2 = row.2.1 → s.regs.sync1 = row.2.1 →
    (∀ j, j < n → (inputAt s j).dqIn = row.2.1 ∧ (inputAt s j).rst = false
      ∧ limitAfter (decode (inputAt s j).bus) 0 = 0) →
    ∃ t, run n s = .next t ∧ t.regs.st = row.1 ∧ busy t.regs = true ∧ sentinelReading t.regs ∧ t.regs.done = false

/-- R318, R114: in IDLE without a START, a TIMEOUT write or a reset, every field but the synchronizer survives any number
of cycles. -/
def Obligations.IdleHoldsEveryField : Prop :=
  ∀ (n : Nat) (s : State), s.cfg.ok = true → s.regs.st = .idle →
    (∀ j, j < n → (inputAt s j).rst = false ∧ (∀ v p r, decode (inputAt s j).bus ≠ .acquire v p r)
      ∧ limitAfter (decode (inputAt s j).bus) s.regs.toLimit = s.regs.toLimit) →
    ∃ t, run n s = .next t ∧ t.regs = { s.regs with sync1 := t.regs.sync1, sync2 := t.regs.sync2 }

/-- R115: the classifier. If BIT_START_L sees the line high in the present cycle u, BIT_DELAY holds for the cycles u + 1 to
u + DUR_SAMPLE, BIT_SAMPLE is cycle u + DUR_SAMPLE + 1, and the bit shifted in is the level at `dq_in` of cycle
u + DUR_SAMPLE - 1. If the line rose one cycle before the present one (the first flop holds 1, the second 0) in BIT_START_L
and stays high for W cycles in all, the bit is 1 exactly when W is at least DUR_SAMPLE + 2. The clauses on `bit_idx` are not
R115's: they add 1 in 6 bits, and from 63, in records that no run reaches, that is the model's reading
(notes/assumptions/9.md). -/
def Obligations.ClassifierThreshold : Prop :=
  (∀ s : State, s.cfg.ok = true → s.regs.st = .bitStartL → s.regs.sync2 = true →
    (∀ j, j ≤ s.cfg.durSample + 1 → (inputAt s j).rst = false) →
    (∀ k, 1 ≤ k → k ≤ s.cfg.durSample → ∃ t, run k s = .next t ∧ t.regs.st = .bitDelay)
    ∧ (∃ t, run (s.cfg.durSample + 1) s = .next t ∧ t.regs.st = .bitSample
      ∧ t.regs.sync2 = (inputAt s (s.cfg.durSample - 1)).dqIn)
    ∧ ∃ t, run (s.cfg.durSample + 2) s = .next t
      ∧ t.regs.frame = shiftIn s.regs.frame (inputAt s (s.cfg.durSample - 1)).dqIn
      ∧ t.regs.bitIdx = s.regs.bitIdx + 1)
  ∧ ∀ (s : State) (w : Nat), s.cfg.ok = true → s.regs.st = .bitStartL → 1 ≤ w →
    s.regs.sync1 = true → s.regs.sync2 = false → timeoutCheck s.cfg s.regs = false →
    (∀ j, j ≤ s.cfg.durSample → (inputAt s j).dqIn = decide (j + 1 < w)) →
    (∀ j, j ≤ s.cfg.durSample + 2 → (inputAt s j).rst = false) →
    ∃ t, run (s.cfg.durSample + 3) s = .next t
      ∧ t.regs.frame = shiftIn s.regs.frame (decide (s.cfg.durSample + 2 ≤ w))
      ∧ t.regs.bitIdx = s.regs.bitIdx + 1

/-- R120: an acquisition reaches CONVERT no earlier than the least length, counted from its first REQ cycle to the CONVERT
cycle inclusive, whatever the line and the host do. -/
def Obligations.ConvertIsNeverReachedEarly : Prop :=
  ∀ (k : Nat) (s t : State), s.cfg.ok = true → s.regs.st = .req → s.regs.tcnt = 0 → s.regs.bitIdx = 0 →
    run k s = .next t → t.regs.st = .convert → minCycles s.cfg ≤ k + 1

/-- R319: with a limit that is not 0 and does not change, and no reset, an acquisition is over after at most the number of
cycles of R319, counted from its first REQ cycle, whatever the line and the host otherwise do. -/
def Obligations.AcquisitionEndsWithinTheBound : Prop :=
  ∀ (s : State) (limitUs : BitVec 16), s.cfg.ok = true → s.regs.st = .req → s.regs.tcnt = 0 → s.regs.bitIdx = 0 →
    s.regs.toLimit = limitUs → limitUs ≠ 0 →
    (∀ j, j < maxCycles s.cfg limitUs.toNat →
      (inputAt s j).rst = false ∧ limitAfter (decode (inputAt s j).bus) limitUs = limitUs) →
    ∃ (k : Nat) (t : State), k ≤ maxCycles s.cfg limitUs.toNat ∧ run k s = .next t ∧ t.regs.st = .idle
end

