-- ==== Sys2Proof/Laws/Encoding.lean ====
section
/-! SUPPORT. The fields of a BUS36 word and of the DATA words, bit by bit (30_encoding.md R70, R72). -/

namespace Sys2Proof

/-! ## Every bit of a word -/

theorem getLsbD_busWord (we : Bool) (a : BitVec 3) (d : Word) (i : Nat) :
    (busWord we a d).getLsbD i
      = if i < 32 then d.getLsbD i else if i < 35 then a.getLsbD (i - 32) else (decide (i = 35) && we) := by
  have h : (busWord we a d).getLsbD i = _ := BitVec.getLsbD_append (x := BitVec.ofBool we ++ a) (y := d)
  rw [h, BitVec.getLsbD_append, BitVec.getLsbD_ofBool]
  by_cases h1 : i < 32
  · simp [h1]
  · by_cases h2 : i < 35
    · have : i - 32 < 3 := by omega
      simp [h1, h2, this]
    · have : ¬ i - 32 < 3 := by omega
      have : (i - 32 - 3 = 0) ↔ i = 35 := by omega
      simp [*]

theorem getLsbD_acquireData (v : SensorVariant) (p : Bool) (r : BitVec 29) (i : Nat) :
    (acquireData v p r).getLsbD i
      = if i = 0 then true else if i = 1 then v.bit else if i = 2 then p else r.getLsbD (i - 3) := by
  have h : (acquireData v p r).getLsbD i = _ :=
    BitVec.getLsbD_append (x := r ++ BitVec.ofBool p ++ BitVec.ofBool v.bit) (y := 1#1)
  rw [h, BitVec.getLsbD_append, BitVec.getLsbD_append, BitVec.getLsbD_ofBool, BitVec.getLsbD_ofBool]
  match i with
  | 0 => simp
  | 1 => simp
  | 2 => simp
  | n + 3 =>
    simp

theorem getLsbD_ctrlNopData (d : BitVec 31) (i : Nat) :
    (ctrlNopData d).getLsbD i = if i = 0 then false else d.getLsbD (i - 1) := by
  have h : (ctrlNopData d).getLsbD i = _ := BitVec.getLsbD_append (x := d) (y := 0#1)
  rw [h]
  match i with
  | 0 => simp
  | n + 1 => simp

theorem getLsbD_timeoutData (l r : BitVec 16) (i : Nat) :
    (timeoutData l r).getLsbD i = if i < 16 then l.getLsbD i else r.getLsbD (i - 16) :=
  BitVec.getLsbD_append (x := r) (y := l)

/-! ## The fields -/

theorem busWord_we (we : Bool) (a : BitVec 3) (d : Word) : (busWord we a d).getLsbD 35 = we := by
  rw [getLsbD_busWord]
  rfl

theorem busWord_addr2 (we : Bool) (a : BitVec 3) (d : Word) : (busWord we a d).getLsbD 34 = a.getLsbD 2 := by
  rw [getLsbD_busWord]
  rfl

theorem busWord_addr1 (we : Bool) (a : BitVec 3) (d : Word) : (busWord we a d).getLsbD 33 = a.getLsbD 1 := by
  rw [getLsbD_busWord]
  rfl

theorem busWord_addr0 (we : Bool) (a : BitVec 3) (d : Word) : (busWord we a d).getLsbD 32 = a.getLsbD 0 := by
  rw [getLsbD_busWord]
  rfl

theorem getLsbD_busData (w : BusWord) (i : Nat) : (busData w).getLsbD i = (decide (i < 32) && w.getLsbD i) := by
  simp [busData]

@[simp] theorem busData_busWord (we : Bool) (a : BitVec 3) (d : Word) : busData (busWord we a d) = d := by
  apply BitVec.eq_of_getLsbD_eq
  intro i hi
  rw [getLsbD_busData, getLsbD_busWord]
  simp [hi]

/-- A word is put together again from its fields. -/
theorem busWord_of_fields (w : BusWord) : busWord (w.getLsbD 35) (w.extractLsb' 32 3) (busData w) = w := by
  apply BitVec.eq_of_getLsbD_eq
  intro i hi
  rw [getLsbD_busWord, getLsbD_busData]
  by_cases h1 : i < 32
  · simp [h1]
  · by_cases h2 : i < 35
    · have h3 : i - 32 < 3 := by omega
      have h4 : 32 + (i - 32) = i := by omega
      rw [if_neg h1, if_pos h2, BitVec.getLsbD_extractLsb', h4]
      simp [h3]
    · have h3 : i = 35 := by omega
      subst h3
      simp

/-- Appending a nibble of WE and ADDR to a DATA word is `busWord`. -/
theorem nibble_append_eq_busWord (n : BitVec 4) (d : Word) :
    (n ++ d : BitVec 36) = busWord (n.getLsbD 3) (n.extractLsb' 0 3) d := by
  apply BitVec.eq_of_getLsbD_eq
  intro i hi
  have h : (n ++ d : BitVec 36).getLsbD i = _ := BitVec.getLsbD_append (x := n) (y := d)
  rw [h, getLsbD_busWord]
  by_cases h1 : i < 32
  · simp [h1]
  · by_cases h2 : i < 35
    · have h3 : i - 32 < 3 := by omega
      rw [if_neg h1, if_neg h1, if_pos h2, BitVec.getLsbD_extractLsb']
      simp [h3]
    · have h3 : i = 35 := by omega
      subst h3
      simp

/-- Decoding a word put together from its fields (R71). -/
theorem decode_busWord (we : Bool) (a : BitVec 3) (d : Word) : decode (busWord we a d) =
    match we, a.getLsbD 2, a.getLsbD 1, a.getLsbD 0 with
    | false, false, false, false => .rdCtrl d
    | false, false, false, true  => .rdStatus d
    | false, false, true,  false => .rdTemp d
    | false, false, true,  true  => .rdHum d
    | false, true,  false, false => .rdTimeout d
    | false, true,  false, true  => .rdRsvd5 d
    | false, true,  true,  false => .rdRsvd6 d
    | false, true,  true,  true  => .rdRsvd7 d
    | true,  false, false, false => decodeCtrlWrite d
    | true,  false, false, true  => .wrStatus d
    | true,  false, true,  false => .wrTemp d
    | true,  false, true,  true  => .wrHum d
    | true,  true,  false, false => .wrTimeout (d.extractLsb' 0 16) (d.extractLsb' 16 16)
    | true,  true,  false, true  => .wrRsvd5 d
    | true,  true,  true,  false => .wrRsvd6 d
    | true,  true,  true,  true  => .wrRsvd7 d := by
  unfold decode
  rw [busWord_we, busWord_addr2, busWord_addr1, busWord_addr0, busData_busWord] <;>
    cases we <;> cases a.getLsbD 2 <;> cases a.getLsbD 1 <;> cases a.getLsbD 0 <;> rfl

/-! ## The masks of the opcode map -/

/-- The mask 0xF00000000 keeps exactly WE and ADDR (R71). -/
theorem busWord_and_opcode_mask (we : Bool) (a : BitVec 3) (d : Word) :
    busWord we a d &&& 0xF00000000#36 = busWord we a 0 := by
  have hm : (0xF00000000#36) = busWord true 7 0 := by decide
  apply BitVec.eq_of_getLsbD_eq
  intro i hi
  rw [BitVec.getLsbD_and, hm, getLsbD_busWord, getLsbD_busWord, getLsbD_busWord]
  by_cases h1 : i < 32
  · simp [h1]
  · by_cases h2 : i < 35
    · have h3 : i - 32 = 0 ∨ i - 32 = 1 ∨ i - 32 = 2 := by omega
      rcases h3 with h3 | h3 | h3 <;> simp [h1, h2, h3]
    · have h3 : i = 35 := by omega
      simp [h3]

/-- The mask 0xF00000001 keeps exactly WE, ADDR and START (R71). -/
theorem busWord_and_ctrl_mask (we : Bool) (a : BitVec 3) (d : Word) :
    busWord we a d &&& 0xF00000001#36 = busWord we a (d &&& 1#32) := by
  have hm : (0xF00000001#36) = busWord true 7 1 := by decide
  apply BitVec.eq_of_getLsbD_eq
  intro i hi
  rw [BitVec.getLsbD_and, hm, getLsbD_busWord, getLsbD_busWord, getLsbD_busWord]
  by_cases h1 : i < 32
  · simp [h1]
  · by_cases h2 : i < 35
    · have h3 : i - 32 = 0 ∨ i - 32 = 1 ∨ i - 32 = 2 := by omega
      rcases h3 with h3 | h3 | h3 <;> simp [h1, h2, h3]
    · have h3 : i = 35 := by omega
      simp [h3]

/-- Bit 0 of the DATA word of ACQUIRE is START = 1 (R72). -/
theorem acquireData_start (v : SensorVariant) (p : Bool) (r : BitVec 29) : acquireData v p r &&& 1#32 = 1#32 := by
  apply BitVec.eq_of_getLsbD_eq
  intro i hi
  rw [BitVec.getLsbD_and, getLsbD_acquireData]
  by_cases h : i = 0 <;> simp [h]

/-- Bit 0 of the DATA word of CTRL_NOP is START = 0 (R72, R183). -/
theorem ctrlNopData_start (d : BitVec 31) : ctrlNopData d &&& 1#32 = 0#32 := by
  apply BitVec.eq_of_getLsbD_eq
  intro i hi
  rw [BitVec.getLsbD_and, getLsbD_ctrlNopData]
  by_cases h : i = 0 <;> simp [h]

end Sys2Proof
end

