-- ==== Sys2Proof/Laws/State.lean ====
section
/-! SUPPORT. One lemma per field per update of the block's record and of the machine's state, true by rfl, so that no
later proof unfolds an update. -/

namespace Sys2Proof.Machine

@[simp] theorem enterPhase_st (q : Phase) (r : Regs) :
    (enterPhase q r).st = q := rfl
@[simp] theorem enterPhase_tcnt (q : Phase) (r : Regs) :
    (enterPhase q r).tcnt = 0 := rfl
@[simp] theorem enterPhase_sync1 (q : Phase) (r : Regs) :
    (enterPhase q r).sync1 = r.sync1 := rfl
@[simp] theorem enterPhase_sync2 (q : Phase) (r : Regs) :
    (enterPhase q r).sync2 = r.sync2 := rfl
@[simp] theorem enterPhase_frame (q : Phase) (r : Regs) :
    (enterPhase q r).frame = r.frame := rfl
@[simp] theorem enterPhase_bitIdx (q : Phase) (r : Regs) :
    (enterPhase q r).bitIdx = r.bitIdx := rfl
@[simp] theorem enterPhase_varQ (q : Phase) (r : Regs) :
    (enterPhase q r).varQ = r.varQ := rfl
@[simp] theorem enterPhase_puQ (q : Phase) (r : Regs) :
    (enterPhase q r).puQ = r.puQ := rfl
@[simp] theorem enterPhase_pullEn (q : Phase) (r : Regs) :
    (enterPhase q r).pullEn = r.pullEn := rfl
@[simp] theorem enterPhase_temp (q : Phase) (r : Regs) :
    (enterPhase q r).temp = r.temp := rfl
@[simp] theorem enterPhase_hum (q : Phase) (r : Regs) :
    (enterPhase q r).hum = r.hum := rfl
@[simp] theorem enterPhase_success (q : Phase) (r : Regs) :
    (enterPhase q r).success = r.success := rfl
@[simp] theorem enterPhase_done (q : Phase) (r : Regs) :
    (enterPhase q r).done = r.done := rfl
@[simp] theorem enterPhase_err (q : Phase) (r : Regs) :
    (enterPhase q r).err = r.err := rfl
@[simp] theorem enterPhase_errPhase (q : Phase) (r : Regs) :
    (enterPhase q r).errPhase = r.errPhase := rfl
@[simp] theorem enterPhase_toLimit (q : Phase) (r : Regs) :
    (enterPhase q r).toLimit = r.toLimit := rfl

@[simp] theorem startAcquisition_st (v : SensorVariant) (p : Bool) (r : Regs) :
    (startAcquisition v p r).st = .req := rfl
@[simp] theorem startAcquisition_tcnt (v : SensorVariant) (p : Bool) (r : Regs) :
    (startAcquisition v p r).tcnt = 0 := rfl
@[simp] theorem startAcquisition_sync1 (v : SensorVariant) (p : Bool) (r : Regs) :
    (startAcquisition v p r).sync1 = r.sync1 := rfl
@[simp] theorem startAcquisition_sync2 (v : SensorVariant) (p : Bool) (r : Regs) :
    (startAcquisition v p r).sync2 = r.sync2 := rfl
@[simp] theorem startAcquisition_frame (v : SensorVariant) (p : Bool) (r : Regs) :
    (startAcquisition v p r).frame = 0 := rfl
@[simp] theorem startAcquisition_bitIdx (v : SensorVariant) (p : Bool) (r : Regs) :
    (startAcquisition v p r).bitIdx = 0 := rfl
@[simp] theorem startAcquisition_varQ (v : SensorVariant) (p : Bool) (r : Regs) :
    (startAcquisition v p r).varQ = v := rfl
@[simp] theorem startAcquisition_puQ (v : SensorVariant) (p : Bool) (r : Regs) :
    (startAcquisition v p r).puQ = p := rfl
@[simp] theorem startAcquisition_pullEn (v : SensorVariant) (p : Bool) (r : Regs) :
    (startAcquisition v p r).pullEn = r.pullEn := rfl
@[simp] theorem startAcquisition_temp (v : SensorVariant) (p : Bool) (r : Regs) :
    (startAcquisition v p r).temp = Config.sentinel := rfl
@[simp] theorem startAcquisition_hum (v : SensorVariant) (p : Bool) (r : Regs) :
    (startAcquisition v p r).hum = Config.sentinel := rfl
@[simp] theorem startAcquisition_success (v : SensorVariant) (p : Bool) (r : Regs) :
    (startAcquisition v p r).success = false := rfl
@[simp] theorem startAcquisition_done (v : SensorVariant) (p : Bool) (r : Regs) :
    (startAcquisition v p r).done = false := rfl
@[simp] theorem startAcquisition_err (v : SensorVariant) (p : Bool) (r : Regs) :
    (startAcquisition v p r).err = .none := rfl
@[simp] theorem startAcquisition_errPhase (v : SensorVariant) (p : Bool) (r : Regs) :
    (startAcquisition v p r).errPhase = .idle := rfl
@[simp] theorem startAcquisition_toLimit (v : SensorVariant) (p : Bool) (r : Regs) :
    (startAcquisition v p r).toLimit = r.toLimit := rfl

@[simp] theorem setLimit_st (l : BitVec 16) (r : Regs) :
    (setLimit l r).st = r.st := rfl
@[simp] theorem setLimit_tcnt (l : BitVec 16) (r : Regs) :
    (setLimit l r).tcnt = r.tcnt := rfl
@[simp] theorem setLimit_sync1 (l : BitVec 16) (r : Regs) :
    (setLimit l r).sync1 = r.sync1 := rfl
@[simp] theorem setLimit_sync2 (l : BitVec 16) (r : Regs) :
    (setLimit l r).sync2 = r.sync2 := rfl
@[simp] theorem setLimit_frame (l : BitVec 16) (r : Regs) :
    (setLimit l r).frame = r.frame := rfl
@[simp] theorem setLimit_bitIdx (l : BitVec 16) (r : Regs) :
    (setLimit l r).bitIdx = r.bitIdx := rfl
@[simp] theorem setLimit_varQ (l : BitVec 16) (r : Regs) :
    (setLimit l r).varQ = r.varQ := rfl
@[simp] theorem setLimit_puQ (l : BitVec 16) (r : Regs) :
    (setLimit l r).puQ = r.puQ := rfl
@[simp] theorem setLimit_pullEn (l : BitVec 16) (r : Regs) :
    (setLimit l r).pullEn = r.pullEn := rfl
@[simp] theorem setLimit_temp (l : BitVec 16) (r : Regs) :
    (setLimit l r).temp = r.temp := rfl
@[simp] theorem setLimit_hum (l : BitVec 16) (r : Regs) :
    (setLimit l r).hum = r.hum := rfl
@[simp] theorem setLimit_success (l : BitVec 16) (r : Regs) :
    (setLimit l r).success = r.success := rfl
@[simp] theorem setLimit_done (l : BitVec 16) (r : Regs) :
    (setLimit l r).done = r.done := rfl
@[simp] theorem setLimit_err (l : BitVec 16) (r : Regs) :
    (setLimit l r).err = r.err := rfl
@[simp] theorem setLimit_errPhase (l : BitVec 16) (r : Regs) :
    (setLimit l r).errPhase = r.errPhase := rfl
@[simp] theorem setLimit_toLimit (l : BitVec 16) (r : Regs) :
    (setLimit l r).toLimit = l := rfl

@[simp] theorem failTimeout_st (c : ErrCode) (p : Phase) (r : Regs) :
    (failTimeout c p r).st = .idle := rfl
@[simp] theorem failTimeout_tcnt (c : ErrCode) (p : Phase) (r : Regs) :
    (failTimeout c p r).tcnt = 0 := rfl
@[simp] theorem failTimeout_sync1 (c : ErrCode) (p : Phase) (r : Regs) :
    (failTimeout c p r).sync1 = r.sync1 := rfl
@[simp] theorem failTimeout_sync2 (c : ErrCode) (p : Phase) (r : Regs) :
    (failTimeout c p r).sync2 = r.sync2 := rfl
@[simp] theorem failTimeout_frame (c : ErrCode) (p : Phase) (r : Regs) :
    (failTimeout c p r).frame = r.frame := rfl
@[simp] theorem failTimeout_bitIdx (c : ErrCode) (p : Phase) (r : Regs) :
    (failTimeout c p r).bitIdx = r.bitIdx := rfl
@[simp] theorem failTimeout_varQ (c : ErrCode) (p : Phase) (r : Regs) :
    (failTimeout c p r).varQ = r.varQ := rfl
@[simp] theorem failTimeout_puQ (c : ErrCode) (p : Phase) (r : Regs) :
    (failTimeout c p r).puQ = r.puQ := rfl
@[simp] theorem failTimeout_pullEn (c : ErrCode) (p : Phase) (r : Regs) :
    (failTimeout c p r).pullEn = r.pullEn := rfl
@[simp] theorem failTimeout_temp (c : ErrCode) (p : Phase) (r : Regs) :
    (failTimeout c p r).temp = r.temp := rfl
@[simp] theorem failTimeout_hum (c : ErrCode) (p : Phase) (r : Regs) :
    (failTimeout c p r).hum = r.hum := rfl
@[simp] theorem failTimeout_success (c : ErrCode) (p : Phase) (r : Regs) :
    (failTimeout c p r).success = r.success := rfl
@[simp] theorem failTimeout_done (c : ErrCode) (p : Phase) (r : Regs) :
    (failTimeout c p r).done = true := rfl
@[simp] theorem failTimeout_err (c : ErrCode) (p : Phase) (r : Regs) :
    (failTimeout c p r).err = c := rfl
@[simp] theorem failTimeout_errPhase (c : ErrCode) (p : Phase) (r : Regs) :
    (failTimeout c p r).errPhase = p := rfl
@[simp] theorem failTimeout_toLimit (c : ErrCode) (p : Phase) (r : Regs) :
    (failTimeout c p r).toLimit = r.toLimit := rfl

@[simp] theorem synchronize_st (d : Bool) (s r : Regs) :
    (synchronize d s r).st = r.st := rfl
@[simp] theorem synchronize_tcnt (d : Bool) (s r : Regs) :
    (synchronize d s r).tcnt = r.tcnt := rfl
@[simp] theorem synchronize_sync1 (d : Bool) (s r : Regs) :
    (synchronize d s r).sync1 = d := rfl
@[simp] theorem synchronize_sync2 (d : Bool) (s r : Regs) :
    (synchronize d s r).sync2 = s.sync1 := rfl
@[simp] theorem synchronize_frame (d : Bool) (s r : Regs) :
    (synchronize d s r).frame = r.frame := rfl
@[simp] theorem synchronize_bitIdx (d : Bool) (s r : Regs) :
    (synchronize d s r).bitIdx = r.bitIdx := rfl
@[simp] theorem synchronize_varQ (d : Bool) (s r : Regs) :
    (synchronize d s r).varQ = r.varQ := rfl
@[simp] theorem synchronize_puQ (d : Bool) (s r : Regs) :
    (synchronize d s r).puQ = r.puQ := rfl
@[simp] theorem synchronize_pullEn (d : Bool) (s r : Regs) :
    (synchronize d s r).pullEn = r.pullEn := rfl
@[simp] theorem synchronize_temp (d : Bool) (s r : Regs) :
    (synchronize d s r).temp = r.temp := rfl
@[simp] theorem synchronize_hum (d : Bool) (s r : Regs) :
    (synchronize d s r).hum = r.hum := rfl
@[simp] theorem synchronize_success (d : Bool) (s r : Regs) :
    (synchronize d s r).success = r.success := rfl
@[simp] theorem synchronize_done (d : Bool) (s r : Regs) :
    (synchronize d s r).done = r.done := rfl
@[simp] theorem synchronize_err (d : Bool) (s r : Regs) :
    (synchronize d s r).err = r.err := rfl
@[simp] theorem synchronize_errPhase (d : Bool) (s r : Regs) :
    (synchronize d s r).errPhase = r.errPhase := rfl
@[simp] theorem synchronize_toLimit (d : Bool) (s r : Regs) :
    (synchronize d s r).toLimit = r.toLimit := rfl

@[simp] theorem takeRead_cfg (w : Word) (s : State) :
    (takeRead w s).cfg = s.cfg := rfl
@[simp] theorem takeRead_regs (w : Word) (s : State) :
    (takeRead w s).regs = s.regs := rfl
@[simp] theorem takeRead_rdata (w : Word) (s : State) :
    (takeRead w s).rdata = w := rfl
@[simp] theorem takeRead_env (w : Word) (s : State) :
    (takeRead w s).env = s.env := rfl
@[simp] theorem takeRead_cycle (w : Word) (s : State) :
    (takeRead w s).cycle = s.cycle := rfl

@[simp] theorem updateRegs_cfg (f : Regs → Regs) (s : State) :
    (updateRegs f s).cfg = s.cfg := rfl
@[simp] theorem updateRegs_regs (f : Regs → Regs) (s : State) :
    (updateRegs f s).regs = f s.regs := rfl
@[simp] theorem updateRegs_rdata (f : Regs → Regs) (s : State) :
    (updateRegs f s).rdata = s.rdata := rfl
@[simp] theorem updateRegs_env (f : Regs → Regs) (s : State) :
    (updateRegs f s).env = s.env := rfl
@[simp] theorem updateRegs_cycle (f : Regs → Regs) (s : State) :
    (updateRegs f s).cycle = s.cycle := rfl

@[simp] theorem endCycle_cfg (s : State) :
    (endCycle s).cfg = s.cfg := rfl
@[simp] theorem endCycle_regs (s : State) :
    (endCycle s).regs = s.regs := rfl
@[simp] theorem endCycle_rdata (s : State) :
    (endCycle s).rdata = s.rdata := rfl
@[simp] theorem endCycle_env (s : State) :
    (endCycle s).env = s.env.tail := rfl
@[simp] theorem endCycle_cycle (s : State) :
    (endCycle s).cycle = s.cycle + 1 := rfl

@[simp] theorem placeInputs_cfg (i : Inputs) (s : State) :
    (placeInputs i s).cfg = s.cfg := rfl
@[simp] theorem placeInputs_regs (i : Inputs) (s : State) :
    (placeInputs i s).regs = s.regs := rfl
@[simp] theorem placeInputs_rdata (i : Inputs) (s : State) :
    (placeInputs i s).rdata = s.rdata := rfl
@[simp] theorem placeInputs_env (i : Inputs) (s : State) :
    (placeInputs i s).env = i :: s.env.tail := rfl
@[simp] theorem placeInputs_cycle (i : Inputs) (s : State) :
    (placeInputs i s).cycle = s.cycle := rfl

end Sys2Proof.Machine
end

