-- ==== Sys2Proof/Laws/Ops.lean ====
section
/-! SUPPORT. Once per shared operation, everything it can do: the input ports, the transaction's half of a cycle, the two
phase kinds, the state machine, the step. The provers cite these and unfold nothing. -/

namespace Sys2Proof.Machine

/-! ## The instance -/

/-- The bounds of R8 in the terms the phases use: the durations. -/
theorem params_bounds {p : Params} (h : p.ok = true) :
    1 ≤ p.clkPerUs ∧ p.clkPerUs ≤ 65536 ∧ 1 ≤ p.durReq ∧ p.durReq ≤ 2 ^ 32 ∧ 2 ≤ p.durSettle
      ∧ p.durSettle ≤ 2 ^ 32 ∧ 1 ≤ p.durSample ∧ p.durSample ≤ 2 ^ 32 := by
  obtain ⟨hc, hc', hr, _, hs, hdr, hdt, hds, hdt'⟩ := of_decide_eq_true h
  have hr' : 1 ≤ p.durReq := Nat.mul_le_mul hr hc
  have hs' : 1 ≤ p.durSample := Nat.mul_le_mul hs hc
  exact ⟨hc, hc', hr', hdr, hdt', hdt, hs', hds⟩

/-! ## The input ports -/

theorem inputAt_succ_of_tail (s t : State) (he : t.env = s.env.tail) (hc : t.cycle = s.cycle + 1) (k : Nat) :
    inputAt t k = inputAt s (k + 1) := by
  unfold inputAt
  rw [he, hc, List.getElem?_tail, Nat.add_right_comm, Nat.add_assoc]

@[simp] theorem inputNow_placeInputs (i : Inputs) (s : State) : inputNow (placeInputs i s) = i := rfl

@[simp] theorem fetch_placeInputs (i : Inputs) (s : State) : fetch (placeInputs i s) = decode i.bus := rfl

/-! ## The transaction's half of a cycle -/

/-- The block's record after a transaction (43_host_ops.md R181). -/
def afterHost (i : Instr) (r : Regs) : Regs :=
  match i with
  | .acquire v p _ => if r.st == .idle then startAcquisition v p r else r
  | .wrTimeout l _ => setLimit l r
  | _ => r

/-- The host's word after a transaction. -/
def hostWord (i : Instr) (s : State) : Word :=
  match i with
  | .rdCtrl _ => ctrlWord s.regs
  | .rdStatus _ => statusWord s.regs
  | .rdTemp _ => tempWord s.regs
  | .rdHum _ => humWord s.regs
  | .rdTimeout _ => timeoutWord s.regs
  | .rdRsvd5 _ => reservedWord s.regs
  | .rdRsvd6 _ => reservedWord s.regs
  | .rdRsvd7 _ => reservedWord s.regs
  | _ => s.rdata

/-- Every transaction completes, and this is all it does. -/
theorem exec_eq (i : Instr) (s : State) :
    exec i s = .next { s with regs := afterHost i s.regs, rdata := hostWord i s } := by
  cases i with
  | acquire v p r =>
    by_cases h : s.regs.st = .idle <;> simp [exec, execAcquire, afterHost, hostWord, h, updateRegs]
  | _ => rfl

/-- Outside IDLE a transaction changes the block in `to_limit` only (R181, R182). -/
theorem afterHost_of_busy (i : Instr) (r : Regs) (h : r.st ≠ .idle) :
    afterHost i r = { r with toLimit := limitAfter i r.toLimit } := by
  cases i <;> simp [afterHost, limitAfter, setLimit, h]

/-- A transaction other than ACQUIRE changes the block in `to_limit` only, in every phase. -/
theorem afterHost_of_not_acquire (i : Instr) (r : Regs) (h : ∀ v p x, i ≠ .acquire v p x) :
    afterHost i r = { r with toLimit := limitAfter i r.toLimit } := by
  cases i with
  | acquire v p x => exact absurd rfl (h v p x)
  | _ => rfl

theorem afterHost_acquire_idle (v : SensorVariant) (p : Bool) (x : BitVec 29) (r : Regs) (h : r.st = .idle) :
    afterHost (.acquire v p x) r = startAcquisition v p r := by
  simp [afterHost, h]

@[simp] theorem afterHost_toLimit (i : Instr) (r : Regs) : (afterHost i r).toLimit = limitAfter i r.toLimit := by
  cases i with
  | acquire v p x => by_cases h : r.st = .idle <;> simp [afterHost, limitAfter, h]
  | _ => rfl

/-- A transaction writes nothing that the synchronizer writes. -/
theorem synchronize_afterHost_of_busy (s : State) (h : s.regs.st ≠ .idle) :
    synchronize (inputNow s).dqIn s.regs (afterHost (fetch s) s.regs) = clocked s := by
  rw [afterHost_of_busy _ _ h]; rfl

/-- The word the host holds, by the two fields of the port (20_memory.md R52, R53). -/
theorem hostWord_fetch (s : State) : hostWord (fetch s) s = takenWord s := by
  unfold fetch takenWord busRdata decode
  generalize (inputNow s).bus = w
  have h2 : (w.extractLsb' 32 3).getLsbD 2 = w.getLsbD 34 := by simp
  have h1 : (w.extractLsb' 32 3).getLsbD 1 = w.getLsbD 33 := by simp
  have h0 : (w.extractLsb' 32 3).getLsbD 0 = w.getLsbD 32 := by simp
  unfold readValue
  rw [h2, h1, h0]
  cases w.getLsbD 35 <;> cases w.getLsbD 34 <;> cases w.getLsbD 33 <;> cases w.getLsbD 32 <;>
    first | rfl | (simp only [decodeCtrlWrite]; split <;> rfl)

/-! ## The phase kinds -/

/-- All a timed phase can do (40_sequencer.md R102). -/
theorem timedPhase_cases (dur : Nat) (q : Phase) (f : Regs → Regs) (s s' : Regs) :
    (dur ≤ s.tcnt.toNat + 1 ∧ timedPhase dur q f s s' = f (enterPhase q s'))
    ∨ (s.tcnt.toNat + 1 < dur ∧ timedPhase dur q f s s' = { s' with tcnt := BitVec.ofNat 32 (s.tcnt.toNat + 1) }) := by
  unfold timedPhase
  by_cases h : dur ≤ s.tcnt.toNat + 1
  · exact .inl ⟨h, if_pos h⟩
  · exact .inr ⟨Nat.lt_of_not_le h, if_neg h⟩

/-- All a wait phase can do (40_sequencer.md R106). -/
theorem waitPhase_cases (p : Params) (ph : Phase) (l : Bool) (q : Phase) (c : ErrCode) (s s' : Regs) :
    (s.sync2 ≠ l ∧ waitPhase p ph l q c s s' = enterPhase q s')
    ∨ (s.sync2 = l ∧ timeoutCheck p s = true ∧ waitPhase p ph l q c s s' = failTimeout c ph s')
    ∨ (s.sync2 = l ∧ timeoutCheck p s = false
      ∧ waitPhase p ph l q c s s' = { s' with tcnt := saturatingSucc s.tcnt }) := by
  unfold waitPhase
  by_cases h : s.sync2 = l
  · cases ht : timeoutCheck p s
    · exact .inr (.inr ⟨h, rfl, by simp [h]⟩)
    · exact .inr (.inl ⟨h, rfl, by simp [h]⟩)
  · exact .inl ⟨h, by simp [h]⟩

/-- TimeoutCheck as an arithmetic condition (60_exceptions.md R303). -/
theorem timeoutCheck_iff (p : Params) (s : Regs) :
    timeoutCheck p s = true ↔ s.toLimit ≠ 0 ∧ s.toLimit.toNat * p.clkPerUs ≤ s.tcnt.toNat + 1 := by
  simp [timeoutCheck]

theorem saturatingSucc_toNat (t : BitVec 32) : (saturatingSucc t).toNat = min (t.toNat + 1) (2 ^ 32 - 1) := by
  unfold saturatingSucc
  rw [BitVec.toNat_ofNat]
  exact Nat.mod_eq_of_lt (by omega)

/-! ## The state machine and the step -/

/-- FsmStep never refuses. -/
theorem fsmStep_not_refused (p : Params) (s s' : Regs) (x : Refusal) : fsmStep p s s' ≠ .refused x := by
  unfold fsmStep
  cases s.st <;> simp

/-- FsmStep of a legal phase gives a record; of a reserved one the fault "illegal phase" (10_state.md R38). -/
theorem fsmStep_of_legal (p : Params) (s s' : Regs) (h : s.st.legal = true) : ∃ r, fsmStep p s s' = .next r := by
  unfold fsmStep
  cases hs : s.st <;> simp [hs, Phase.legal] at h ⊢

theorem fsmStep_of_reserved (p : Params) (s s' : Regs) (k : Fin 5) (h : s.st = .reserved k) :
    fsmStep p s s' = .fault .illegalPhase := by
  unfold fsmStep; rw [h]

/-- A phase from which FsmStep goes on is legal. -/
theorem legal_of_fsmStep {p : Params} {s s' r : Regs} (h : fsmStep p s s' = .next r) : s.st.legal = true := by
  cases hs : s.st with
  | reserved k => rw [fsmStep_of_reserved p s s' k hs] at h; cases h
  | _ => rfl

/-- What a timed phase can do to the next record: leave, or count (R102, R104). -/
def TimedOutcome (p : Params) (s s' r : Regs) : Prop :=
  ∃ row ∈ timedRows p, s.st = row.1
    ∧ ((row.2.1 ≤ s.tcnt.toNat + 1
        ∧ r = { s' with st := row.2.2, tcnt := 0, pullEn := s'.pullEn || (row.1 == .req && s.puQ) })
      ∨ (s.tcnt.toNat + 1 < row.2.1 ∧ r = { s' with tcnt := BitVec.ofNat 32 (s.tcnt.toNat + 1) }))

/-- What a wait phase can do to the next record: move on, time out, or count (R106, R304). -/
def WaitOutcome (p : Params) (s s' r : Regs) : Prop :=
  ∃ row ∈ waitRows, s.st = row.1
    ∧ ((s.sync2 ≠ row.2.1 ∧ r = { s' with st := row.2.2.1, tcnt := 0 })
      ∨ (s.sync2 = row.2.1 ∧ timeoutCheck p s = true
        ∧ r = { s' with err := row.2.2.2, errPhase := row.1, done := true, st := .idle, tcnt := 0 })
      ∨ (s.sync2 = row.2.1 ∧ timeoutCheck p s = false ∧ r = { s' with tcnt := saturatingSucc s.tcnt }))

theorem timedOutcome_of_timedPhase (p : Params) (s s' : Regs) (row : Phase × Nat × Phase) (hrow : row ∈ timedRows p)
    (hst : s.st = row.1) :
    TimedOutcome p s s' (timedPhase row.2.1 row.2.2 (if row.1 == .req then releaseLine s else id) s s') := by
  refine ⟨row, hrow, hst, ?_⟩
  rcases timedPhase_cases row.2.1 row.2.2 (if row.1 == .req then releaseLine s else id) s s' with ⟨hd, he⟩ | ⟨hd, he⟩
  · refine Or.inl ⟨hd, ?_⟩
    rw [he]
    cases row.1 == .req <;> cases hp : s.puQ <;> simp [releaseLine, enterPhase, hp]
  · exact Or.inr ⟨hd, he⟩

theorem waitOutcome_of_waitPhase (p : Params) (s s' : Regs) (row : Phase × Bool × Phase × ErrCode)
    (hrow : row ∈ waitRows) (hst : s.st = row.1) :
    WaitOutcome p s s' (waitPhase p row.1 row.2.1 row.2.2.1 row.2.2.2 s s') :=
  ⟨row, hrow, hst, waitPhase_cases p row.1 row.2.1 row.2.2.1 row.2.2.2 s s'⟩

/-- All that FsmStep can do, phase by phase (40_sequencer.md R102 to R114, 41_checksum.md R146). -/
theorem fsmStep_cases {p : Params} {s s' r : Regs} (h : fsmStep p s s' = .next r) :
    (s.st = .idle ∧ r = s') ∨ TimedOutcome p s s' r ∨ WaitOutcome p s s' r
    ∨ (s.st = .bitSample ∧ r = { s' with
        frame := shiftIn s.frame s.sync2, bitIdx := s.bitIdx + 1, tcnt := 0,
        st := if s.bitIdx == 39 then .convert else .bitGapH })
    ∨ (s.st = .convert ∧ frameOk s.frame = true ∧ r = { s' with
        temp := signedWord (convertFrame s.varQ s.frame).1, hum := signedWord (convertFrame s.varQ s.frame).2,
        success := true, done := true, st := .idle, tcnt := 0 })
    ∨ (s.st = .convert ∧ frameOk s.frame = false
      ∧ r = { s' with success := false, done := true, st := .idle, tcnt := 0 }) := by
  cases hs : s.st with
  | idle => unfold fsmStep at h; rw [hs] at h; cases h; exact .inl ⟨rfl, rfl⟩
  | req =>
    unfold fsmStep at h; rw [hs] at h; cases h
    exact .inr (.inl (timedOutcome_of_timedPhase p s s' (.req, p.durReq, .settle) (by simp [timedRows]) hs))
  | settle =>
    unfold fsmStep at h; rw [hs] at h; cases h
    exact .inr (.inl (timedOutcome_of_timedPhase p s s' (.settle, p.durSettle, .respWaitH) (by simp [timedRows]) hs))
  | bitDelay =>
    unfold fsmStep at h; rw [hs] at h; cases h
    exact .inr (.inl (timedOutcome_of_timedPhase p s s' (.bitDelay, p.durSample, .bitSample) (by simp [timedRows]) hs))
  | respWaitH =>
    unfold fsmStep at h; rw [hs] at h; cases h
    exact .inr (.inr (.inl (waitOutcome_of_waitPhase p s s' (.respWaitH, true, .respL, .noResponse) (by simp [waitRows]) hs)))
  | respL =>
    unfold fsmStep at h; rw [hs] at h; cases h
    exact .inr (.inr (.inl (waitOutcome_of_waitPhase p s s' (.respL, false, .respH, .timingError) (by simp [waitRows]) hs)))
  | respH =>
    unfold fsmStep at h; rw [hs] at h; cases h
    exact .inr (.inr (.inl (waitOutcome_of_waitPhase p s s' (.respH, true, .bitGapH, .timingError) (by simp [waitRows]) hs)))
  | bitGapH =>
    unfold fsmStep at h; rw [hs] at h; cases h
    exact .inr (.inr (.inl
      (waitOutcome_of_waitPhase p s s' (.bitGapH, true, .bitStartL, .timingError) (by simp [waitRows]) hs)))
  | bitStartL =>
    unfold fsmStep at h; rw [hs] at h; cases h
    exact .inr (.inr (.inl
      (waitOutcome_of_waitPhase p s s' (.bitStartL, false, .bitDelay, .timingError) (by simp [waitRows]) hs)))
  | bitSample => unfold fsmStep at h; rw [hs] at h; cases h; exact .inr (.inr (.inr (.inl ⟨rfl, rfl⟩)))
  | convert =>
    unfold fsmStep at h
    rw [hs] at h
    simp only [phaseConvert, Host.Outcome.next.injEq] at h
    cases hf : frameOk s.frame
    · rw [hf] at h; exact .inr (.inr (.inr (.inr (.inr ⟨rfl, rfl, h.symm⟩))))
    · rw [hf] at h; exact .inr (.inr (.inr (.inr (.inl ⟨rfl, rfl, h.symm⟩))))
  | reserved k => rw [fsmStep_of_reserved p s s' k hs] at h; cases h

/-- The record over which FsmStep writes. -/
def fsmInput (s : State) : Regs := synchronize (inputNow s).dqIn s.regs (afterHost (fetch s) s.regs)

theorem fsmInput_of_busy (s : State) (h : s.regs.st ≠ .idle) : fsmInput s = clocked s :=
  synchronize_afterHost_of_busy s h

/-- A step, in full. -/
theorem step_eq (s : State) (hok : s.cfg.ok = true) :
    step s =
      if (inputNow s).rst then .next ⟨s.cfg, Regs.reset, takenWord s, s.env.tail, s.cycle + 1⟩
      else
        match fsmStep s.cfg s.regs (fsmInput s) with
        | .next r => .next ⟨s.cfg, r, takenWord s, s.env.tail, s.cycle + 1⟩
        | .fault f => .fault f
        | .refused x => .refused x := by
  unfold step
  rw [if_pos hok, exec_eq, ← hostWord_fetch]
  rfl

/-- A step with FsmStep's record known. -/
theorem completesWith_of_fsmStep (s : State) (r : Regs) (hok : s.cfg.ok = true) (hr : (inputNow s).rst = false)
    (h : fsmStep s.cfg s.regs (fsmInput s) = .next r) : completesWith s r := by
  unfold completesWith
  rw [step_eq s hok, hr, h]
  rfl

/-- A cycle in a phase other than IDLE: FsmStep writes over `clocked`. -/
theorem completesWith_of_busy {s : State} {ph : Phase} (h : runsPhase s ph) (hb : ph ≠ .idle) (r : Regs)
    (hf : fsmStep s.cfg s.regs (clocked s) = .next r) : completesWith s r := by
  obtain ⟨hok, hr, hst⟩ := h
  exact completesWith_of_fsmStep s r hok hr (by rw [fsmInput_of_busy s (by rw [hst]; exact hb)]; exact hf)

/-- All that a step which goes on can have done: a reset cycle, or FsmStep's record; the rest of the machine moves on by
one cycle. -/
theorem step_next_cases (s t : State) (h : step s = .next t) :
    s.cfg.ok = true ∧ t.cfg = s.cfg ∧ t.rdata = takenWord s ∧ t.env = s.env.tail ∧ t.cycle = s.cycle + 1
    ∧ (((inputNow s).rst = true ∧ t.regs = Regs.reset)
      ∨ ((inputNow s).rst = false ∧ fsmStep s.cfg s.regs (fsmInput s) = .next t.regs)) := by
  by_cases hok : s.cfg.ok = true
  · rw [step_eq s hok] at h
    cases hr : (inputNow s).rst
    · rw [hr] at h
      cases hf : fsmStep s.cfg s.regs (fsmInput s) with
      | next r =>
        rw [hf] at h
        cases h
        exact ⟨hok, rfl, rfl, rfl, rfl, .inr ⟨rfl, rfl⟩⟩
      | fault f => rw [hf] at h; cases h
      | refused x => exact absurd hf (fsmStep_not_refused _ _ _ _)
    · rw [hr] at h
      cases h
      exact ⟨hok, rfl, rfl, rfl, rfl, .inl ⟨rfl, rfl⟩⟩
  · unfold step at h
    rw [if_neg hok] at h
    cases h

/-! ## Runs -/

@[simp] theorem run_zero (s : State) : run 0 s = .next s := rfl

theorem run_succ_of_step (k : Nat) (s t : State) (h : step s = .next t) : run (k + 1) s = run k t := by
  simp only [run, h]

/-- A run that goes on one cycle more than another goes through the other's end. -/
theorem run_succ (k : Nat) (s t : State) (h : run k s = .next t) : run (k + 1) s = step t := by
  induction k generalizing s with
  | zero =>
    cases h
    simp only [run]
    cases step t <;> rfl
  | succ k ih =>
    cases hs : step s with
    | next u =>
      rw [run_succ_of_step k s u hs] at h
      rw [run_succ_of_step (k + 1) s u hs]
      exact ih u h
    | fault f => simp only [run, hs] at h; cases h
    | refused x => simp only [run, hs] at h; cases h

/-- A run keeps the instance, and the inputs move on with it. -/
theorem run_frame (k : Nat) (s t : State) (h : run k s = .next t) :
    t.cfg = s.cfg ∧ ∀ j, inputAt t j = inputAt s (k + j) := by
  induction k generalizing s with
  | zero => cases h; exact ⟨rfl, fun j => by rw [Nat.zero_add]⟩
  | succ k ih =>
    cases hs : step s with
    | next u =>
      rw [run_succ_of_step k s u hs] at h
      obtain ⟨_, hcfg, _, henv, hcycle, _⟩ := step_next_cases s u hs
      obtain ⟨hc, hi⟩ := ih u h
      refine ⟨hc.trans hcfg, fun j => ?_⟩
      rw [hi j, inputAt_succ_of_tail s u henv hcycle, Nat.add_right_comm]
    | fault f => simp only [run, hs] at h; cases h
    | refused x => simp only [run, hs] at h; cases h

/-- A run in two parts. -/
theorem run_add (k m : Nat) (s t : State) (h : run k s = .next t) : run (k + m) s = run m t := by
  induction k generalizing s with
  | zero => cases h; rw [Nat.zero_add]
  | succ k ih =>
    cases hs : step s with
    | next u =>
      rw [run_succ_of_step k s u hs] at h
      rw [Nat.add_right_comm, run_succ_of_step _ s u hs]
      exact ih u h
    | fault f => simp only [run, hs] at h; cases h
    | refused x => simp only [run, hs] at h; cases h

end Sys2Proof.Machine
end

