-- ==== Sys2Proof/Laws/PerInstr.lean ====
section
/-! SUPPORT. Statements about every transaction, one lemma per constructor. -/

namespace Sys2Proof.Laws

/-- The row of the opcode map with a transaction's mnemonic (30_encoding.md R71). -/
def rowOf (i : Instr) : Option OpcodeRow := opcodeRows.find? (fun r => r.mnemonic == i.mnemonic)

/-- The encoding of a transaction belongs to the row of its own mnemonic. -/
def EncodeMatchesRow.Statement (i : Instr) : Prop := (rowOf i).map (fun r => r.hit (encode i)) = some true

/-- A row with the mask 0xF00000000 is hit by the words with its WE and ADDR. -/
theorem hit_of_opcode_mask (m : String) (pat : BusWord) (we : Bool) (a : BitVec 3) (d : Word)
    (h : busWord we a 0 = pat) : OpcodeRow.hit ⟨m, pat, 0xF00000000#36⟩ (busWord we a d) = true := by
  simp only [OpcodeRow.hit, busWord_and_opcode_mask, h, beq_self_eq_true]

/-- A row with the mask 0xF00000001 is hit by the words with its WE, ADDR and START. -/
theorem hit_of_ctrl_mask (m : String) (pat : BusWord) (we : Bool) (a : BitVec 3) (d b : Word)
    (hb : d &&& 1#32 = b) (h : busWord we a b = pat) :
    OpcodeRow.hit ⟨m, pat, 0xF00000001#36⟩ (busWord we a d) = true := by
  simp only [OpcodeRow.hit, busWord_and_ctrl_mask, hb, h, beq_self_eq_true]

namespace EncodeMatchesRow

theorem rdCtrl (data : Word) : Statement (.rdCtrl data) :=
  congrArg some (hit_of_opcode_mask "RD_CTRL" _ false 0 data (by decide))
theorem rdStatus (data : Word) : Statement (.rdStatus data) :=
  congrArg some (hit_of_opcode_mask "RD_STATUS" _ false 1 data (by decide))
theorem rdTemp (data : Word) : Statement (.rdTemp data) :=
  congrArg some (hit_of_opcode_mask "RD_TEMP" _ false 2 data (by decide))
theorem rdHum (data : Word) : Statement (.rdHum data) :=
  congrArg some (hit_of_opcode_mask "RD_HUM" _ false 3 data (by decide))
theorem rdTimeout (data : Word) : Statement (.rdTimeout data) :=
  congrArg some (hit_of_opcode_mask "RD_TIMEOUT" _ false 4 data (by decide))
theorem rdRsvd5 (data : Word) : Statement (.rdRsvd5 data) :=
  congrArg some (hit_of_opcode_mask "RD_RSVD5" _ false 5 data (by decide))
theorem rdRsvd6 (data : Word) : Statement (.rdRsvd6 data) :=
  congrArg some (hit_of_opcode_mask "RD_RSVD6" _ false 6 data (by decide))
theorem rdRsvd7 (data : Word) : Statement (.rdRsvd7 data) :=
  congrArg some (hit_of_opcode_mask "RD_RSVD7" _ false 7 data (by decide))
theorem acquire (variant : SensorVariant) (pullUp : Bool) (rsvd : BitVec 29) :
    Statement (.acquire variant pullUp rsvd) :=
  congrArg some (hit_of_ctrl_mask "ACQUIRE" _ true 0 (acquireData variant pullUp rsvd) 1#32
    (acquireData_start variant pullUp rsvd) (by decide))
theorem ctrlNop (data : BitVec 31) : Statement (.ctrlNop data) :=
  congrArg some (hit_of_ctrl_mask "CTRL_NOP" _ true 0 (ctrlNopData data) 0#32 (ctrlNopData_start data) (by decide))
theorem wrStatus (data : Word) : Statement (.wrStatus data) :=
  congrArg some (hit_of_opcode_mask "WR_STATUS" _ true 1 data (by decide))
theorem wrTemp (data : Word) : Statement (.wrTemp data) :=
  congrArg some (hit_of_opcode_mask "WR_TEMP" _ true 2 data (by decide))
theorem wrHum (data : Word) : Statement (.wrHum data) :=
  congrArg some (hit_of_opcode_mask "WR_HUM" _ true 3 data (by decide))
theorem wrTimeout (limitUs rsvd : BitVec 16) : Statement (.wrTimeout limitUs rsvd) :=
  congrArg some (hit_of_opcode_mask "WR_TIMEOUT" _ true 4 (timeoutData limitUs rsvd) (by decide))
theorem wrRsvd5 (data : Word) : Statement (.wrRsvd5 data) :=
  congrArg some (hit_of_opcode_mask "WR_RSVD5" _ true 5 data (by decide))
theorem wrRsvd6 (data : Word) : Statement (.wrRsvd6 data) :=
  congrArg some (hit_of_opcode_mask "WR_RSVD6" _ true 6 data (by decide))
theorem wrRsvd7 (data : Word) : Statement (.wrRsvd7 data) :=
  congrArg some (hit_of_opcode_mask "WR_RSVD7" _ true 7 data (by decide))

end EncodeMatchesRow

end Sys2Proof.Laws
end

