-- ==== Sys2Proof/Tests/Slice0.lean ====
section
/-! SUPPORT. The model's own tests: ill-formed terms, words written out from 30_encoding.md, one-step vectors from
95_test_vectors.md, and for each statement with hypotheses a concrete state that meets them. Every expected value is
taken from the spec file named beside it. -/

namespace Sys2Proof.Tests

open Sys2Proof Sys2Proof.Machine

/-! ## Building states -/

/-- TC1 of 95_test_vectors.md. -/
def tc1 : Params := ⟨1, 3, 2, 3⟩

/-- The shortest instance that R8 allows with `CLK_PER_US` = 1: durations 1, 2 and 1. -/
def tcMin : Params := ⟨1, 1, 2, 1⟩

/-- A cycle's inputs without reset: the line and the word on the port. -/
def cyc (dq : Bool) (bus : BusWord) : Inputs := ⟨false, dq, bus⟩

/-- `nop` (R84) with the line at a level. -/
def nop (dq : Bool) : Inputs := cyc dq 0x000000000#36

/-- A TC1 machine with a record and the inputs to come. -/
def mach (r : Regs) (env : List Inputs) : State := ⟨tc1, r, 0, env, 0⟩

/-- A record as an acquisition has it, in a phase with a count and the two synchronizer levels. -/
def inPhase (ph : Phase) (n : BitVec 32) (s1 s2 : Bool) : Regs :=
  { Regs.reset with st := ph, tcnt := n, sync1 := s1, sync2 := s2 }

/-- Does an outcome go on, to a state with a property? -/
def goesTo (o : Host.Outcome State Fault Refusal) (f : State → Bool) : Bool :=
  match o with
  | .next t => f t
  | .fault _ => false
  | .refused _ => false

/-- The word that the host holds after a transaction. -/
def reads (o : Host.Outcome State Fault Refusal) (w : Word) : Bool := goesTo o (fun t => t.rdata == w)

/-- The record after an outcome. -/
def leaves (o : Host.Outcome State Fault Refusal) (r : Regs) : Bool := goesTo o (fun t => t.regs == r)

/-! ## Well-formedness: the one check, R70 -/

theorem test_wf_refuses_read_with_data : (Instr.rdStatus 1).wellFormed = false := by decide
theorem test_wf_refuses_every_read_with_data :
    [Instr.rdCtrl 1, .rdTemp 2, .rdHum 4, .rdTimeout 8, .rdRsvd5 1, .rdRsvd6 1, .rdRsvd7 0x80000000].all
      (fun i => !i.wellFormed) = true := by decide
theorem test_wf_takes_written_forms :
    [Instr.rdStatus 0, .acquire .dht22 true 0, .wrTimeout 1000 0, .wrRsvd7 1].all Instr.wellFormed = true := by decide

/-! ## Decoding, each word written from the encodings of R71, R84 and 95_test_vectors.md 2.5 -/

theorem test_decode_rd_ctrl : decode 0x000000000#36 = .rdCtrl 0 := by decide
theorem test_decode_rd_status : decode 0x100000000#36 = .rdStatus 0 := by decide
theorem test_decode_rd_temp : decode 0x200000000#36 = .rdTemp 0 := by decide
theorem test_decode_rd_hum : decode 0x300000000#36 = .rdHum 0 := by decide
theorem test_decode_rd_timeout : decode 0x400000000#36 = .rdTimeout 0 := by decide
theorem test_decode_rd_rsvd5 : decode 0x500000000#36 = .rdRsvd5 0 := by decide
theorem test_decode_rd_rsvd6 : decode 0x600000000#36 = .rdRsvd6 0 := by decide
theorem test_decode_rd_rsvd7 : decode 0x700000000#36 = .rdRsvd7 0 := by decide
/-- H9. -/
theorem test_decode_acquire_ignored_bits : decode 0x8FFFFFFF9#36 = .acquire .dht11 false 0x1FFFFFFF#29 := by decide
theorem test_decode_acquire_pull : decode 0x800000005#36 = .acquire .dht11 true 0 := by decide
/-- H8. -/
theorem test_decode_ctrl_nop : decode 0x800000006#36 = .ctrlNop 3 := by decide
theorem test_decode_wr_status : decode 0x9FFFFFFFF#36 = .wrStatus 0xFFFFFFFF := by decide
theorem test_decode_wr_temp : decode 0xA00000000#36 = .wrTemp 0 := by decide
theorem test_decode_wr_hum : decode 0xB00000000#36 = .wrHum 0 := by decide
/-- H15. -/
theorem test_decode_wr_timeout : decode 0xC00012345#36 = .wrTimeout 0x2345 1 := by decide
theorem test_decode_wr_rsvd5 : decode 0xD00000007#36 = .wrRsvd5 7 := by decide
theorem test_decode_wr_rsvd6 : decode 0xE00000000#36 = .wrRsvd6 0 := by decide
theorem test_decode_wr_rsvd7 : decode 0xF00000001#36 = .wrRsvd7 1 := by decide
/-- A word bit by bit from R70 and R72: WE = 1, ADDR = 000, 29 reserved bits, PULLUP = 1, VARIANT = 1, START = 1. -/
theorem test_decode_from_fields : decode (1#1 ++ 0b000#3 ++ 0#29 ++ 1#1 ++ 1#1 ++ 1#1) = .acquire .dht22 true 0 := by
  decide
theorem test_decode_rejects_wide_pattern :
    (match decodePattern (2 ^ 36) with | .error .widerThanPort => true | .ok _ => false) = true := by decide
theorem test_decode_table_word : decodeTableWord 40 0xC000003E8 = some (.wrTimeout 1000 0) := by decide
theorem test_decode_bytes :
    (match decodeBytes [0xE8, 0x03, 0x00, 0x00, 0x0C] with | .ok i => i == .wrTimeout 1000 0 | .error _ => false) = true := by
  decide

/-! ## One transaction each, 95_test_vectors.md 2.5 -/

/-- P1's record at cycle 277. -/
def p1End : Regs :=
  { Regs.reset with bitIdx := 40, frame := 0x3C00190055#40, puQ := true, pullEn := true, temp := 2500#32, hum := 6000#32,
                    success := true, done := true }

/-- P5's record at cycle 58. -/
def p5End : Regs :=
  { Regs.reset with bitIdx := 5, varQ := .dht22, done := true, err := .timingError, errPhase := .bitStartL,
                    toLimit := 10#16 }

/-- H1. -/
theorem test_rd_ctrl : reads (exec (.rdCtrl 0) (mach p1End [])) 0 = true := by decide
/-- P1: every low flag, PULL_EN and BIT_IDX. -/
theorem test_rd_status_p1 : reads (exec (.rdStatus 0) (mach p1End [])) 0x00280046#32 = true := by decide
/-- P5: ERR, VARIANT, ERR_PHASE. -/
theorem test_rd_status_p5 : reads (exec (.rdStatus 0) (mach p5End [])) 0x00057032#32 = true := by decide
/-- CV6. -/
theorem test_rd_temp : reads (exec (.rdTemp 0) (mach { p1End with temp := signedWord (-2700) } [])) 0xFFFFF574#32 = true := by
  decide
/-- P1. -/
theorem test_rd_hum : reads (exec (.rdHum 0) (mach p1End [])) 0x00001770#32 = true := by decide
/-- H15. -/
theorem test_rd_timeout : reads (exec (.rdTimeout 0) (mach { p1End with toLimit := 0x2345#16 } [])) 0x00002345#32 = true := by
  decide
/-- H6. -/
theorem test_rd_rsvd5 : reads (exec (.rdRsvd5 0) (mach p1End [])) 0 = true := by decide
theorem test_rd_rsvd6 : reads (exec (.rdRsvd6 0) (mach p1End [])) 0 = true := by decide
theorem test_rd_rsvd7 : reads (exec (.rdRsvd7 0) (mach p1End [])) 0 = true := by decide
/-- H7 after P1: `pull_en` and `to_limit` stay, the Reading is the sentinel. -/
theorem test_acquire_in_idle :
    leaves (exec (.acquire .dht22 true 0) (mach p1End []))
      { Regs.reset with st := .req, varQ := .dht22, puQ := true, pullEn := true } = true := by decide
/-- H11, H10: dropped, in CONVERT. -/
theorem test_acquire_in_convert :
    leaves (exec (.acquire .dht22 false 0) (mach { p1End with st := .convert } [])) { p1End with st := .convert } = true := by
  decide
/-- H8. -/
theorem test_ctrl_nop : leaves (exec (.ctrlNop 3) (mach p1End [])) p1End = true := by decide
/-- H12. -/
theorem test_wr_status : leaves (exec (.wrStatus 0xFFFFFFFF) (mach p1End [])) p1End = true := by decide
/-- H13. -/
theorem test_wr_temp : leaves (exec (.wrTemp 0) (mach p1End [])) p1End = true := by decide
/-- H14. -/
theorem test_wr_hum : leaves (exec (.wrHum 0) (mach p1End [])) p1End = true := by decide
/-- H15. -/
theorem test_wr_timeout :
    leaves (exec (decode 0xC00012345#36) (mach p1End [])) { p1End with toLimit := 0x2345#16 } = true := by decide
theorem test_wr_rsvd5 : leaves (exec (.wrRsvd5 1) (mach p1End [])) p1End = true := by decide
theorem test_wr_rsvd6 : leaves (exec (.wrRsvd6 1) (mach p1End [])) p1End = true := by decide
/-- H16. -/
theorem test_wr_rsvd7 : leaves (exec (.wrRsvd7 1) (mach p1End [])) p1End = true := by decide

/-! ## Checksum and converter, 95_test_vectors.md 2.1 and 2.2 -/

/-- CK1, CK2, CK4, CK5, CK6, CK7, CK9 pass; CK3 and CK8 fail. -/
theorem test_checksum_vectors :
    [checksumOk 0 0 0 0 0, checksumOk 255 255 255 255 252, checksumOk 128 128 0 0 0, checksumOk 128 128 128 128 0,
     checksumOk 255 255 255 3 0, checksumOk 255 255 1 0 255, checksumOk 255 255 2 0 0,
     checksumOk 255 255 255 255 251, checksumOk 60 0 25 0 86]
      = [true, true, true, true, true, true, true, false, false] := by decide
/-- CV2, CV3, CV4, CV14. -/
theorem test_convert_dht11 :
    [convert .dht11 255 255 255 255, convert .dht11 0 0 200 5, convert .dht11 50 150 20 0, convert .dht11 2 88 129 14]
      = [(25755, 25755), (20005, 0), (2000, 5150), (12914, 288)] := by decide
/-- CV6 to CV11, CV15. -/
theorem test_convert_dht22 :
    [convert .dht22 2 88 129 14, convert .dht22 255 255 0 0, convert .dht22 0 0 128 0, convert .dht22 0 0 255 255,
     convert .dht22 0 0 127 255, convert .dht22 0 0 167 6, convert .dht22 165 90 255 0]
      = [(-2700, 6000), (0, 655350), (0, 0), (-327670, 0), (327670, 0), (-99900, 0), (-325120, 423300)] := by decide

/-! ## One cycle of a phase each, 95_test_vectors.md SQ1, 2.4 and 2.6 -/

/-- SQ1, cycle 0. -/
theorem test_cycle_start :
    leaves (step (mach Regs.reset [cyc true 0x800000005#36])) { inPhase .req 0 true true with puQ := true } = true := by
  decide
/-- SQ1, cycle 3: the last REQ cycle; PULL_EN at the release. -/
theorem test_cycle_req_end :
    leaves (step (mach { inPhase .req 2 false false with puQ := true } [nop false]))
      { inPhase .settle 0 false false with puQ := true, pullEn := true } = true := by decide
/-- SQ1, cycle 5. -/
theorem test_cycle_settle_end :
    leaves (step (mach (inPhase .settle 1 true false) [nop true])) (inPhase .respWaitH 0 true true) = true := by decide
/-- SQ1, cycle 8. -/
theorem test_cycle_resp_wait_h :
    leaves (step (mach (inPhase .respWaitH 2 false false) [nop false])) (inPhase .respL 0 false false) = true := by decide
/-- SQ1, cycle 11. -/
theorem test_cycle_resp_l :
    leaves (step (mach (inPhase .respL 2 true true) [nop true])) (inPhase .respH 0 true true) = true := by decide
/-- SQ1, cycle 14. -/
theorem test_cycle_resp_h :
    leaves (step (mach (inPhase .respH 2 false false) [nop false])) (inPhase .bitGapH 0 false false) = true := by decide
/-- SQ1, cycle 15. -/
theorem test_cycle_bit_gap_h :
    leaves (step (mach (inPhase .bitGapH 0 false false) [nop true])) (inPhase .bitStartL 0 true false) = true := by decide
/-- SQ1, cycle 16: still low, counts. -/
theorem test_cycle_bit_start_l :
    leaves (step (mach (inPhase .bitStartL 0 true false) [nop true])) (inPhase .bitStartL 1 true true) = true := by decide
/-- SQ1, cycle 20. -/
theorem test_cycle_bit_delay_end :
    leaves (step (mach (inPhase .bitDelay 2 false false) [nop false])) (inPhase .bitSample 0 false false) = true := by
  decide
/-- SQ1, cycle 33: bit 2 is 1. -/
theorem test_cycle_bit_sample :
    leaves (step (mach { inPhase .bitSample 0 false true with bitIdx := 2 } [nop false]))
      { inPhase .bitGapH 0 false false with bitIdx := 3, frame := 1#40 } = true := by decide
/-- P1, cycle 276. -/
theorem test_cycle_convert :
    leaves (step (mach { inPhase .convert 0 true true with
        bitIdx := 40, frame := 0x3C00190055#40, puQ := true, pullEn := true } [nop true])) p1End = true := by decide
/-- CK8: no error, the sentinel stays. -/
theorem test_cycle_convert_fails :
    leaves (step (mach { inPhase .convert 0 true true with bitIdx := 40, frame := 0x3C00190056#40 } [nop true]))
      { inPhase .idle 0 true true with bitIdx := 40, frame := 0x3C00190056#40, done := true } = true := by decide
/-- TO1, cycle 7: the STATUS of cycle 8. -/
theorem test_cycle_timeout :
    leaves (step (mach { inPhase .respWaitH 0 true true with toLimit := 1 } [nop true]))
      { inPhase .idle 0 true true with toLimit := 1, done := true, err := .noResponse, errPhase := .respWaitH } = true := by
  decide
/-- TO3, cycle 9: the level wins. -/
theorem test_cycle_level_beats_timeout :
    leaves (step (mach { inPhase .respWaitH 2 false false with toLimit := 3 } [nop false]))
      { inPhase .respL 0 false false with toLimit := 3 } = true := by decide
/-- RS4: reset wins over a START. -/
theorem test_cycle_reset_wins : leaves (step (mach p1End [⟨true, true, 0x800000001#36⟩])) Regs.reset = true := by decide
/-- H17: the read of cycle t gives the old limit. -/
theorem test_cycle_read_sees_present :
    reads (step (mach { p1End with toLimit := 7 } [cyc true 0x400000000#36])) 7 = true := by decide
/-- The word placed for fetching runs as the first transaction after reset. -/
theorem test_fetch_word_runs :
    goesTo (step (State.reset.withFetchWord 40 0xC000003E8)) (fun t => t.regs.toLimit == 1000) = true := by decide

/-! ## Witnesses: for each statement with hypotheses, a concrete state and operands that meet all of them -/

theorem next_of_goesTo {o : Host.Outcome State Fault Refusal} {t : State} (h : goesTo o (fun x => x == t) = true) :
    o = .next t := by
  cases o with
  | next s => simp only [goesTo, beq_iff_eq] at h; rw [h]
  | fault f => cases h
  | refused x => cases h

theorem exists_of_goesTo {o : Host.Outcome State Fault Refusal} {f : State → Bool} (h : goesTo o f = true) :
    ∃ t, o = .next t ∧ f t = true := by
  cases o with
  | next s => exact ⟨s, rfl, h⟩
  | fault f => cases h
  | refused x => cases h

/-- A record in an acquisition that meets the invariant, as a check. -/
def busyOk (p : Params) (r : Regs) : Bool :=
  p.ok && r.st != .idle && r.st.legal && bitIdxFits r.st r.bitIdx.toNat && tcntFits p r.st r.tcnt.toNat
    && decide (r.frame.toNat < 2 ^ r.bitIdx.toNat) && (r.st == .req || !r.puQ || r.pullEn)
    && r.temp == Config.sentinel && r.hum == Config.sentinel && !r.success && !r.done
    && r.err == .none && r.errPhase == .idle

theorem safe_of_busyOk (s : State) (h : busyOk s.cfg s.regs = true) : Safe s := by
  simp only [busyOk, Bool.and_eq_true, bne_iff_ne, ne_eq, beq_iff_eq, Bool.or_eq_true, Bool.not_eq_true',
    decide_eq_true_eq] at h
  obtain ⟨⟨⟨⟨⟨⟨⟨⟨⟨⟨⟨⟨hok, hb⟩, hl⟩, hbits⟩, hcount⟩, hframe⟩, hpull⟩, ht⟩, hh⟩, hs⟩, hd⟩, he⟩, hep⟩ := h
  refine ⟨hok, hl, hbits, hcount, hframe, ?_, fun _ => ⟨⟨ht, hh, hs⟩, hd, he, hep⟩, fun h => absurd h hb⟩
  intro hreq hpu
  rcases hpull with (h | h) | h
  · exact absurd h hreq
  · rw [hpu] at h; cases h
  · exact h

/-- A passing CONVERT record (P1, cycle 276). -/
def convPass : State := mach { inPhase .convert 0 true true with bitIdx := 40, frame := 0x3C00190055#40 } [nop true]
/-- A failing one (CK8). -/
def convFail : State := mach { inPhase .convert 0 true true with bitIdx := 40, frame := 0x3C00190056#40 } [nop true]
/-- A wait phase that times out in this cycle (TO1). -/
def waitOut : State := mach { inPhase .respWaitH 0 true true with toLimit := 1 } [nop true, nop true]
/-- A late wait phase that times out in this cycle, after bit 39's low began. -/
def lateOut : State := mach { inPhase .bitStartL 9 false false with toLimit := 10, bitIdx := 39 } [nop false]

/-! ### Encoding, reset, instance -/

theorem witness_ResetCycleGivesResetState :
    (mach (inPhase (.reserved 4) 9 false false) [⟨true, false, 0x800000001#36⟩]).cfg.ok = true
    ∧ (inputNow (mach (inPhase (.reserved 4) 9 false false) [⟨true, false, 0x800000001#36⟩])).rst = true := by decide

theorem witness_ReadsAfterResetGiveTheListedValues : (mach Regs.reset [nop true]).regs = State.reset.regs := by decide

/-- The bounds of R8 at their edges: each instance in the first list is legal, each in the second breaks one bound. -/
theorem witness_InstanceOutOfBoundsIsRefused :
    [tc1, tcMin, ⟨65536, 65536, 1, 1⟩, ⟨1, 4294967296, 2, 1⟩, ⟨2, 1, 1, 1⟩].map Params.ok = [true, true, true, true, true]
    ∧ [(⟨0, 3, 2, 3⟩ : Params), ⟨65537, 1, 1, 1⟩, ⟨1, 0, 2, 1⟩, ⟨1, 1, 0, 1⟩, ⟨1, 1, 2, 0⟩, ⟨1, 4294967297, 2, 1⟩,
        ⟨1, 1, 4294967297, 1⟩, ⟨1, 1, 2, 4294967297⟩, ⟨1, 1, 1, 1⟩].all (fun p => !p.ok) = true
    ∧ (State.resetOf ⟨1, 1, 1, 1⟩).cfg.ok = false := by decide

/-! ### Transactions -/

theorem witness_IgnoredWritesChangeNothing : (0xFFFFFFFE#32).getLsbD 0 = false := by decide

theorem witness_AcquireInIdleStartsAnAcquisition : State.reset.regs.st = .idle ∧ convPass.regs.st ≠ .idle := by decide

theorem witness_AcquireIsAcceptedInIdleOnly :
    (7#32).getLsbD 0 = true ∧ State.reset.regs.st = .idle ∧ convPass.regs.st ≠ .idle := by decide

theorem witness_DroppedStartLeavesNoTrace : convPass.regs.st ≠ .idle := by decide

theorem witness_EveryTransactionCompletesWithItsFrame :
    (encode (.rdTemp 0xFFFFFFFF)).getLsbD 35 = false ∧ (encode (.wrTimeout 9 0)).getLsbD 35 = true
    ∧ (∀ v p r, Instr.wrTimeout 9 0 ≠ .acquire v p r) ∧ convPass.regs.st ≠ .idle :=
  ⟨by decide, by decide, (fun _ _ _ h => Instr.noConfusion h), by decide⟩

/-! ### The step -/

theorem witness_StepRunsTheDecodedTransaction :
    (mach Regs.reset [cyc true 0xC00000009#36]).cfg.ok = true
    ∧ decode (inputNow (mach Regs.reset [cyc true 0xC00000009#36])).bus = .wrTimeout 9 0
    ∧ exec (.wrTimeout 9 0) (mach Regs.reset [cyc true 0xC00000009#36])
      = .next (mach { Regs.reset with toLimit := 9 } [cyc true 0xC00000009#36]) :=
  ⟨by decide, by decide, rfl⟩

/-- Both clauses: a record, and the fault of a reserved phase. -/
theorem witness_StepIsNextInTheOrderOfTheSpec :
    convPass.cfg.ok = true
    ∧ ruleNext convPass.cfg (inputNow convPass) convPass.regs = .next { p1End with puQ := false, pullEn := false }
    ∧ (mach (inPhase (.reserved 0) 0 true true) [nop true]).cfg.ok = true
    ∧ ruleNext tc1 (nop true) (inPhase (.reserved 0) 0 true true) = .fault .illegalPhase :=
  ⟨by decide, rfl, by decide, rfl⟩

theorem witness_ReadsSeeThePresentState :
    (∃ t, step (mach p1End [cyc true 0x200000000#36]) = .next t ∧ (t.rdata == 2500#32) = true)
    ∧ (inputNow (mach p1End [cyc true 0x200000000#36])).bus.getLsbD 35 = false
    ∧ (∃ t, step (mach p1End [cyc true 0xF00000001#36]) = .next t ∧ (t.rdata == 0) = true)
    ∧ (inputNow (mach p1End [cyc true 0xF00000001#36])).bus.getLsbD 35 = true :=
  ⟨exists_of_goesTo (by decide), by decide, exists_of_goesTo (by decide), by decide⟩

/-- Two steps without reset, and one with the line at the other level. -/
theorem witness_SynchronizerDelaysTheLineTwoCycles :
    step (mach Regs.reset [nop false, nop true]) = .next ⟨tc1, { Regs.reset with sync1 := false }, 0, [nop true], 1⟩
    ∧ (inputNow (mach Regs.reset [nop false, nop true])).rst = false
    ∧ step ⟨tc1, { Regs.reset with sync1 := false }, 0, [nop true], 1⟩
      = .next ⟨tc1, { Regs.reset with sync2 := false }, 0, [], 2⟩
    ∧ (inputNow ⟨tc1, { Regs.reset with sync1 := false }, 0, [nop true], 1⟩).rst = false
    ∧ step (placeInputs (nop true) (mach Regs.reset [nop false, nop true])) = .next ⟨tc1, Regs.reset, 0, [nop true], 1⟩ :=
  ⟨next_of_goesTo (by decide), by decide, next_of_goesTo (by decide), by decide, next_of_goesTo (by decide)⟩

/-! ### One cycle of each phase -/

theorem witness_IdleWritesNothing :
    runsPhase (mach p1End [nop false]) .idle ∧ (∀ v p r, fetch (mach p1End [nop false]) ≠ .acquire v p r)
    ∧ runsPhase (mach p1End [cyc true 0x800000003#36]) .idle
    ∧ fetch (mach p1End [cyc true 0x800000003#36]) = .acquire .dht22 false 0 :=
  ⟨⟨by decide, by decide, by decide⟩,
   (fun _ _ _ h => Instr.noConfusion ((show fetch (mach p1End [nop false]) = .rdCtrl 0 by decide).symm.trans h)),
   ⟨by decide, by decide, by decide⟩, by decide⟩

/-- Each timed phase in its last cycle and in the cycle before it. -/
theorem witness_TimedPhaseCycle :
    ∀ row ∈ timedRows tc1, ∀ n ∈ [row.2.1 - 1, row.2.1 - 2],
      (let s := mach (inPhase row.1 (BitVec.ofNat 32 n) true true) [nop true]
       s.cfg.ok && !(inputNow s).rst && s.regs.st == row.1
         && (decide (row.2.1 ≤ s.regs.tcnt.toNat + 1) == decide (n = row.2.1 - 1))) = true := by decide

/-- Each wait phase: a level change, a check that is true at its boundary, and one that misses it by one cycle. -/
theorem witness_WaitPhaseCycle :
    ∀ row ∈ waitRows,
      (let gone := mach { inPhase row.1 4 true (!row.2.1) with toLimit := 5 } [nop true]
       let out := mach { inPhase row.1 4 true row.2.1 with toLimit := 5 } [nop true]
       let stay := mach { inPhase row.1 3 true row.2.1 with toLimit := 5 } [nop true]
       [gone, out, stay].all (fun s => s.cfg.ok && !(inputNow s).rst && s.regs.st == row.1)
         && gone.regs.sync2 != row.2.1 && out.regs.sync2 == row.2.1 && stay.regs.sync2 == row.2.1
         && decide (out.regs.toLimit.toNat * out.cfg.clkPerUs ≤ out.regs.tcnt.toNat + 1)
         && decide (stay.regs.tcnt.toNat + 1 < stay.regs.toLimit.toNat * stay.cfg.clkPerUs)) = true := by decide

/-- The first and the 40th sample. -/
theorem witness_BitSampleCycle :
    runsPhase (mach (inPhase .bitSample 0 true true) [nop true]) .bitSample
    ∧ runsPhase (mach { inPhase .bitSample 0 true true with bitIdx := 39 } [nop true]) .bitSample
    ∧ (39#6).toNat ≤ 39 :=
  ⟨⟨by decide, by decide, by decide⟩, ⟨by decide, by decide, by decide⟩, by decide⟩

/-- A failing frame; a passing DHT11 frame; passing DHT22 frames with byte 2 at 127 and at 128 (CV10, CV8). -/
theorem witness_ConvertCycle :
    runsPhase convFail .convert ∧ (60 + 0 + 25 + 0) % 256 ≠ 86
    ∧ convFail.regs.frame.toNat / 2 ^ 32 % 256 = 60 ∧ convFail.regs.frame.toNat % 256 = 86
    ∧ runsPhase convPass .convert ∧ (60 + 0 + 25 + 0) % 256 = 85 ∧ convPass.regs.varQ = .dht11
    ∧ runsPhase (mach { inPhase .convert 0 true true with varQ := .dht22, frame := 0x00007FFF7E#40 } [nop true]) .convert
    ∧ (0x00007FFF7E#40).toNat / 2 ^ 16 % 256 = 127 ∧ (0 + 0 + 127 + 255) % 256 = 126
    ∧ runsPhase (mach { inPhase .convert 0 true true with varQ := .dht22, frame := 0x0000800080#40 } [nop true]) .convert
    ∧ (0x0000800080#40).toNat / 2 ^ 16 % 256 = 128 ∧ (0 + 0 + 128 + 0) % 256 = 128 := by
  simp only [runsPhase]
  decide

theorem witness_ReqEndReleasesTheLine :
    runsPhase (mach { inPhase .req 2 false false with puQ := true } [nop false]) .req
    ∧ runsPhase (mach (inPhase .req 2 false false) [nop false]) .req
    ∧ tc1.tReqUs * tc1.clkPerUs ≤ (2#32).toNat + 1 :=
  ⟨⟨by decide, by decide, by decide⟩, ⟨by decide, by decide, by decide⟩, by decide⟩

/-! ### Rules over the whole machine -/

theorem witness_ReservedPhaseFaultsAndIsNeverEntered :
    runsPhase (mach (inPhase (.reserved 0) 0 true true) [nop true]) (.reserved 0)
    ∧ runsPhase (mach (inPhase (.reserved 4) 0 true true) [nop true]) (.reserved 4)
    ∧ ∃ t, step convPass = .next t ∧ (t.regs.st == .idle) = true :=
  ⟨⟨by decide, by decide, by decide⟩, ⟨by decide, by decide, by decide⟩, exists_of_goesTo (by decide)⟩

/-- IDLE left by a START; a timeout ending. -/
theorem witness_PhasesFollowTheFixedOrder :
    (∃ t, step (mach Regs.reset [cyc true 0x800000001#36]) = .next t ∧ (t.regs.st != .idle) = true)
    ∧ (inputNow (mach Regs.reset [cyc true 0x800000001#36])).rst = false
    ∧ (∃ t, step waitOut = .next t ∧ (t.regs.st == .idle) = true)
    ∧ (inputNow waitOut).rst = false ∧ waitOut.regs.st ≠ .convert ∧ waitOut.regs.st ≠ .idle :=
  ⟨exists_of_goesTo (by decide), by decide, exists_of_goesTo (by decide), by decide, by decide, by decide⟩

/-- A START that changes both latches; an edge that sets `pull_en`; a step that keeps it. -/
theorem witness_StickyFieldsChangeOnlyAsListed :
    (∃ t, step (mach Regs.reset [cyc true 0x800000007#36]) = .next t
      ∧ (t.regs.varQ != Regs.reset.varQ && t.regs.puQ != Regs.reset.puQ) = true)
    ∧ (inputNow (mach Regs.reset [cyc true 0x800000007#36])).rst = false
    ∧ (∃ t, step (mach { inPhase .req 2 false false with puQ := true } [nop false]) = .next t ∧ t.regs.pullEn = true)
    ∧ (inputNow (mach { inPhase .req 2 false false with puQ := true } [nop false])).rst = false
    ∧ (inPhase .req 2 false false).pullEn = false
    ∧ p1End.pullEn = true ∧ (∃ t, step (mach p1End [nop true]) = .next t ∧ t.regs.pullEn = true)
    ∧ (inputNow (mach p1End [nop true])).rst = false :=
  ⟨exists_of_goesTo (by decide), by decide, exists_of_goesTo (by decide), by decide, by decide, by decide,
   exists_of_goesTo (by decide), by decide⟩

/-- A START over P1's Reading; a CONVERT. -/
theorem witness_ReadingCommitsAtOneEdge :
    (∃ t, step (mach p1End [cyc true 0x800000001#36]) = .next t
      ∧ (t.regs.temp != p1End.temp && t.regs.hum != p1End.hum && t.regs.success != p1End.success) = true)
    ∧ (inputNow (mach p1End [cyc true 0x800000001#36])).rst = false
    ∧ (∃ t, step convPass = .next t ∧ (t.regs.success != convPass.regs.success) = true)
    ∧ (inputNow convPass).rst = false :=
  ⟨exists_of_goesTo (by decide), by decide, exists_of_goesTo (by decide), by decide⟩

/-- TO3's cycle 9; a busy phase; an idle one; and a check with a TIMEOUT write beside the same check without one. -/
theorem witness_PriorityWithinOneCycle :
    runsPhase (mach { inPhase .respWaitH 2 false false with toLimit := 3 } [nop false]) .respWaitH
    ∧ timeoutCheck tc1 { inPhase .respWaitH 2 false false with toLimit := 3 } = true
    ∧ (inPhase .respWaitH 2 false false).sync2 ≠ true
    ∧ convPass.regs.st ≠ .idle ∧ p1End.st = .idle
    ∧ waitOut.regs.st ≠ .idle ∧ (inputNow waitOut).rst = false
    ∧ (∃ t, step waitOut = .next t ∧ (t.regs.toLimit == 1) = true)
    ∧ (∃ t, step (placeInputs { inputNow waitOut with bus := 0xC00000009#36 } waitOut) = .next t
      ∧ (t.regs.toLimit == 9) = true) :=
  ⟨⟨by decide, by decide, by decide⟩, by decide, by decide, by decide, by decide, by decide, by decide,
   exists_of_goesTo (by decide), exists_of_goesTo (by decide)⟩

/-- A limit of 4 µs written in TC1 at `tcnt` = 2 (the boundary): the next cycle's level holds in the first machine and
has changed in the second. -/
theorem witness_NewLimitActsInTheNextCycle :
    ∀ next ∈ [true, false],
      (let s := mach (inPhase .respWaitH 2 next true) [cyc true 0xC00000004#36, nop true]
       s.cfg.ok && !(inputNow s).rst && s.regs.st == .respWaitH && s.regs.sync2 && !timeoutCheck s.cfg s.regs
         && fetch s == .wrTimeout 4 0 && decide ((4#16).toNat * s.cfg.clkPerUs = s.regs.tcnt.toNat + 2)
         && goesTo (step s) (fun t => !(inputNow t).rst) && s.regs.sync1 == next) = true := by decide

/-- The phases of the first clause, and BIT_SAMPLE, each with both levels. -/
theorem witness_LineIsReadOnlyInWaitPhasesAndSamples :
    ∀ ph ∈ [Phase.idle, .req, .settle, .bitDelay, .convert, .bitSample],
      (let s := mach (inPhase ph 0 true true) [nop true]
       goesTo (step s) (fun _ => true)
         && goesTo (step { s with regs := { s.regs with sync2 := false } }) (fun _ => true)) = true := by decide

theorem witness_HiddenFieldsCannotBeRead :
    (∃ t, exec (.rdStatus 0) convPass = .next t ∧ (t.rdata == 0x00280A01#32) = true)
    ∧ ∃ t, exec (.rdStatus 0) { convPass with
        regs := { convPass.regs with tcnt := 7, sync1 := false, sync2 := false, puQ := true, frame := 0 } } = .next t
      ∧ (t.rdata == 0x00280A01#32) = true :=
  ⟨exists_of_goesTo (by decide), exists_of_goesTo (by decide)⟩

/-- Two CONVERT records with one frame and different histories. -/
theorem witness_EachAcquisitionReplacesTheReading :
    p1End.st = .idle ∧ (∃ t, exec (.acquire .dht11 false 0) (mach p1End []) = .next t ∧ (t.regs.st == .req) = true)
    ∧ Safe convPass ∧ Safe { convPass with regs := { convPass.regs with pullEn := true, toLimit := 20 } }
    ∧ convPass.regs.st = .convert ∧ (inputNow convPass).rst = false
    ∧ (∃ t, step convPass = .next t ∧ (t.regs.temp == 2500) = true)
    ∧ ∃ t, step { convPass with regs := { convPass.regs with pullEn := true, toLimit := 20 } } = .next t
      ∧ (t.regs.temp == 2500) = true :=
  ⟨by decide, exists_of_goesTo (by decide), safe_of_busyOk _ (by decide), safe_of_busyOk _ (by decide), by decide,
   by decide, exists_of_goesTo (by decide), exists_of_goesTo (by decide)⟩

/-! ### Checksum, packing, converter -/

theorem witness_ChecksumReductionIsModulo256 : [0, 255, 256, 511, 512, 767, 768, 1020].all (fun n => n ≤ 1020) = true := by
  decide

theorem witness_SampledBitsArePackedMsbFirst :
    (List.replicate 40 true).length = 40 ∧ 0 < (List.replicate 40 true).length ∧ 39 < (List.replicate 40 true).length := by
  decide

/-- A safe machine in an acquisition: both registers negative, VARIANT 0. -/
theorem witness_ConverterResultsFitTheirRegisters :
    Safe convPass ∧ convPass.regs.hum.toInt < 0 ∧ convPass.regs.varQ = .dht11 ∧ convPass.regs.temp.toInt < 0 :=
  ⟨safe_of_busyOk _ (by decide), by decide, by decide, by decide⟩

theorem witness_SentinelCanBeAGoodTemperature :
    runsPhase (mach { inPhase .convert 0 true true with bitIdx := 40, varQ := .dht22, frame := 0x0000A706AD#40 } [nop true])
      .convert :=
  ⟨by decide, by decide, by decide⟩

/-! ### The invariant -/

theorem witness_ResetStateIsSafe : tc1.ok = true ∧ tcMin.ok = true := by decide

theorem witness_EveryStepKeepsTheMachineSafe :
    Safe convPass ∧ ∃ t, step convPass = .next t ∧ (t.regs.done && t.regs.success) = true :=
  ⟨safe_of_busyOk _ (by decide), exists_of_goesTo (by decide)⟩

theorem witness_SafeMachineAlwaysSteps : Safe waitOut ∧ Safe convFail :=
  ⟨safe_of_busyOk _ (by decide), safe_of_busyOk _ (by decide)⟩

/-- One machine for each of the four ways. -/
theorem witness_AcquisitionEndsInOneOfFourWays :
    ∀ s ∈ [convPass, convFail, waitOut, lateOut],
      Safe s ∧ (inputNow s).rst = false ∧ s.regs.st ≠ .idle ∧ ∃ t, step s = .next t ∧ (t.regs.st == .idle) = true := by
  intro s hs
  simp only [List.mem_cons, List.not_mem_nil, or_false] at hs
  rcases hs with rfl | rfl | rfl | rfl <;>
    exact ⟨safe_of_busyOk _ (by decide), by decide, by decide, exists_of_goesTo (by decide)⟩

/-! ### Many cycles -/

/-- SQ3 and SQ4 of 95_test_vectors.md: the lengths for TC1, and with CLK_PER_US = 2. -/
theorem test_lengths :
    [minCycles tc1, minCycles ⟨2, 3, 2, 3⟩, maxCycles tc1 4, maxCycles ⟨2, 3, 2, 3⟩ 4] = [249, 374, 498, 955] := by decide

theorem witness_TimedPhaseLastsExactlyItsDuration :
    ∀ row ∈ timedRows tc1,
      (let s := mach (inPhase row.1 0 true true) [nop true, nop false, nop true]
       s.cfg.ok && s.regs.st == row.1 && s.regs.tcnt == 0
         && (List.range row.2.1).all (fun j => !(inputAt s j).rst)) = true := by decide

theorem witness_LineIsPulledLowExactlyDurReqCycles :
    runsPhase (mach Regs.reset [cyc true 0x800000005#36, nop false, nop false, nop false]) .idle
    ∧ fetch (mach Regs.reset [cyc true 0x800000005#36, nop false, nop false, nop false]) = .acquire .dht11 true 0
    ∧ ∀ j, j < 4 → (inputAt (mach Regs.reset [cyc true 0x800000005#36, nop false, nop false, nop false]) j).rst = false :=
  ⟨⟨by decide, by decide, by decide⟩, by decide, by decide⟩

/-- TIMEOUT = 1 (the phase's first cycle) and TIMEOUT = 3, in each wait phase. -/
theorem witness_TimeoutFiresAfterExactlyTheLimit :
    ∀ row ∈ waitRows, ∀ n ∈ [1, 3],
      (let s := mach { inPhase row.1 0 row.2.1 row.2.1 with toLimit := BitVec.ofNat 16 n }
                  [nop row.2.1, nop row.2.1, nop row.2.1]
       s.cfg.ok && s.regs.st == row.1 && s.regs.tcnt == 0 && s.regs.toLimit != 0
         && decide (n = s.regs.toLimit.toNat * s.cfg.clkPerUs) && s.regs.sync2 == row.2.1 && s.regs.sync1 == row.2.1
         && (List.range (n - 2)).all (fun j => (inputAt s j).dqIn == row.2.1)
         && (List.range n).all (fun j => !(inputAt s j).rst)
         && (List.range (n - 1)).all (fun j => limitAfter (decode (inputAt s j).bus) s.regs.toLimit == s.regs.toLimit))
        = true := by decide

theorem witness_HeldLevelHangsWithTheTimeoutOff :
    Safe (mach (inPhase .respWaitH 0 true true) [nop true, nop true])
    ∧ (mach (inPhase .respWaitH 0 true true) [nop true, nop true]).regs.toLimit = 0
    ∧ ∀ j, j < 2 → (inputAt (mach (inPhase .respWaitH 0 true true) [nop true, nop true]) j).dqIn = true
      ∧ (inputAt (mach (inPhase .respWaitH 0 true true) [nop true, nop true]) j).rst = false
      ∧ limitAfter (decode (inputAt (mach (inPhase .respWaitH 0 true true) [nop true, nop true]) j).bus) 0 = 0 :=
  ⟨safe_of_busyOk _ (by decide), by decide, by decide⟩

theorem witness_IdleHoldsEveryField :
    (mach p1End [nop false, cyc true 0x800000006#36]).cfg.ok = true
    ∧ (mach p1End [nop false, cyc true 0x800000006#36]).regs.st = .idle
    ∧ ∀ j, j < 2 → (inputAt (mach p1End [nop false, cyc true 0x800000006#36]) j).rst = false
      ∧ (∀ v p r, decode (inputAt (mach p1End [nop false, cyc true 0x800000006#36]) j).bus ≠ .acquire v p r)
      ∧ limitAfter (decode (inputAt (mach p1End [nop false, cyc true 0x800000006#36]) j).bus) 0 = 0 := by
  refine ⟨by decide, by decide, fun j hj => ?_⟩
  obtain rfl | rfl : j = 0 ∨ j = 1 := by omega
  · refine ⟨by decide, fun v p r h => ?_, by decide⟩
    rw [show decode (inputAt (mach p1End [nop false, cyc true 0x800000006#36]) 0).bus = .rdCtrl 0 by decide] at h
    cases h
  · refine ⟨by decide, fun v p r h => ?_, by decide⟩
    rw [show decode (inputAt (mach p1End [nop false, cyc true 0x800000006#36]) 1).bus = .ctrlNop 3 by decide] at h
    cases h

/-- TC1 (DUR_SAMPLE = 3): the first clause, and the second at W = 4 (reads 0) and W = 5 (reads 1), SQ2. -/
theorem witness_ClassifierThreshold :
    (let s := mach (inPhase .bitStartL 1 true true) (List.replicate 5 (nop true))
     s.cfg.ok && s.regs.st == .bitStartL && s.regs.sync2 && (List.range 5).all (fun j => !(inputAt s j).rst)) = true
    ∧ ∀ w ∈ [4, 5],
      (let s := mach (inPhase .bitStartL 0 true false)
                  (List.replicate (w - 1) (nop true) ++ List.replicate (7 - w) (nop false))
       s.cfg.ok && s.regs.st == .bitStartL && s.regs.sync1 && !s.regs.sync2 && !timeoutCheck s.cfg s.regs
         && (List.range 4).all (fun j => (inputAt s j).dqIn == decide (j + 1 < w))
         && (List.range 6).all (fun j => !(inputAt s j).rst)) = true := by decide

/-- The shortest instance, at the start of REQ, on a line that changes level in every cycle. -/
def reqStart : State :=
  ⟨tcMin, inPhase .req 0 true true, 0, (List.replicate 130 [nop false, nop true]).flatten, 0⟩

/-- CONVERT is reached, in 168 cycles; the least number of R120 for this instance is 167. -/
theorem witness_ConvertIsNeverReachedEarly :
    reqStart.cfg.ok = true ∧ reqStart.regs.st = .req ∧ reqStart.regs.tcnt = 0 ∧ reqStart.regs.bitIdx = 0
    ∧ ∃ t, run 168 reqStart = .next t ∧ (t.regs.st == .convert) = true :=
  ⟨by decide, by decide, by decide, by decide, exists_of_goesTo (by decide +kernel)⟩

/-- SQ3's instance TC1 with a limit of 1 µs: the bound of R319 is 3 + 2 + 3 + 40 × 6 + 1 = 249 cycles. -/
theorem witness_AcquisitionEndsWithinTheBound :
    let s := mach { inPhase .req 0 true true with toLimit := 1 } (List.replicate 249 (nop true))
    s.cfg.ok = true ∧ s.regs.st = .req ∧ s.regs.tcnt = 0 ∧ s.regs.bitIdx = 0 ∧ s.regs.toLimit = 1 ∧ (1#16) ≠ 0
    ∧ maxCycles s.cfg (1#16).toNat = 249
    ∧ ∀ j, j < 249 → (inputAt s j).rst = false ∧ limitAfter (decode (inputAt s j).bus) 1 = 1 := by
  refine ⟨by decide, by decide, by decide, by decide, by decide, by decide, by decide, fun j hj => ?_⟩
  have h : inputAt (mach { inPhase .req 0 true true with toLimit := 1 } (List.replicate 249 (nop true))) j = nop true := by
    simp only [inputAt, mach, List.getElem?_replicate, if_pos hj]
  simp only [h]
  decide

end Sys2Proof.Tests
end

section
/-! The instance: what its check says, and what a step does when the check fails (00_scope.md R8). -/

namespace Sys2Proof

/-- The check on the parameters, with the derived cycle counts of R8 written as products. -/
theorem Params.ok_iff (p : Params) :
    p.ok = true ↔
      (1 ≤ p.clkPerUs ∧ p.clkPerUs ≤ 65536 ∧ 1 ≤ p.tReqUs ∧ 1 ≤ p.tSettleUs ∧ 1 ≤ p.tSampleUs
        ∧ p.tReqUs * p.clkPerUs ≤ 4294967296 ∧ p.tSettleUs * p.clkPerUs ≤ 4294967296
        ∧ p.tSampleUs * p.clkPerUs ≤ 4294967296 ∧ 2 ≤ p.tSettleUs * p.clkPerUs) := by
  rw [Params.ok, decide_eq_true_iff]
  simp only [Params.durReq, Params.durSettle, Params.durSample, Nat.reducePow]

namespace Machine

/-- The check comes first in a step: neither `rst` nor the host's word is looked at when it fails. -/
theorem step_of_not_ok (s : State) (h : s.cfg.ok = false) : step s = .refused .parametersOutOfBounds :=
  if_neg (Bool.eq_false_iff.mp h)

/-- Settles O7: the check decides the bounds of R8, and a step makes it before anything else. -/
theorem instanceOutOfBoundsIsRefused : Obligations.InstanceOutOfBoundsIsRefused :=
  ⟨Params.ok_iff, step_of_not_ok⟩

end Machine

end Sys2Proof
end
section
/-! Reset and the frame of a cycle: the record a reset cycle leaves, who writes which field, and the state machine's
half of a cycle against the host's half (10_state.md R20, R23, R26, R36, R38). -/

namespace Sys2Proof.Machine

/-! ## Reset and the host's view -/

/-- A reset cycle of legal parameters completes with RESET_STATE, whatever the present record and the inputs. -/
theorem completesWith_reset (s : State) (hok : s.cfg.ok = true) (hr : (inputNow s).rst = true) :
    completesWith s Regs.reset := by
  unfold completesWith
  rw [step_eq s hok, if_pos hr]

/-- The sentinel's pattern and value (00_scope.md R8, R9). -/
theorem sentinel_eq : Config.sentinel = 0xFFFE79C4#32 := by decide

theorem sentinel_toInt : Config.sentinel.toInt = -99900 := by decide

/-- Settles O5: a reset cycle completes with RESET_STATE, whose fields are the listed ones. -/
theorem resetCycleGivesResetState : Obligations.ResetCycleGivesResetState := fun s hok hr =>
  ⟨_, completesWith_reset s hok hr, rfl, rfl, rfl, rfl, rfl, rfl, rfl, rfl, rfl, sentinel_eq, sentinel_toInt,
    sentinel_eq, sentinel_toInt, rfl, rfl, rfl, rfl, rfl⟩

/-- No word of the host is a function of `tcnt`, the synchronizer, `pu_q` or `frame` (30_encoding.md R72 to R77). -/
theorem hostWord_of_hidden (i : Instr) (s : State) (n : BitVec 32) (b1 b2 pu : Bool) (f : Frame) :
    hostWord i { s with regs := { s.regs with tcnt := n, sync1 := b1, sync2 := b2, puQ := pu, frame := f } }
      = hostWord i s := by
  cases i <;> rfl

/-- Settles O34: a transaction gives the host `hostWord`, which no hidden field reaches. -/
theorem hiddenFieldsCannotBeRead : Obligations.HiddenFieldsCannotBeRead := by
  intro s i n b1 b2 pu f t u ht hu
  rw [exec_eq] at ht hu
  cases ht
  cases hu
  exact hostWord_of_hidden i s n b1 b2 pu f

/-! ## What the host's half of a cycle writes -/

@[simp] theorem fsmInput_toLimit (s : State) : (fsmInput s).toLimit = limitAfter (fetch s) s.regs.toLimit :=
  afterHost_toLimit (fetch s) s.regs

/-- A START accepted in IDLE writes over the moved synchronizer. -/
theorem fsmInput_of_start {s : State} {v : SensorVariant} {p : Bool} {x : BitVec 29} (hst : s.regs.st = .idle)
    (hi : fetch s = .acquire v p x) : fsmInput s = startAcquisition v p (clocked s) := by
  unfold fsmInput clocked
  rw [hi, afterHost_acquire_idle v p x s.regs hst]
  rfl

theorem fsmInput_of_not_acquire {s : State} (h : ∀ v p x, fetch s ≠ .acquire v p x) : fsmInput s = clocked s := by
  unfold fsmInput clocked
  rw [afterHost_of_not_acquire _ _ h]
  rfl

/-- All that the ports leave for FsmStep: an accepted START over the moved synchronizer, or the moved synchronizer and
the limit alone. -/
theorem fsmInput_cases (s : State) :
    (s.regs.st = .idle ∧ ∃ v p x, fetch s = .acquire v p x ∧ fsmInput s = startAcquisition v p (clocked s))
    ∨ fsmInput s = clocked s := by
  by_cases hst : s.regs.st = .idle
  · by_cases hi : ∃ v p x, fetch s = .acquire v p x
    · obtain ⟨v, p, x, hi⟩ := hi
      exact .inl ⟨hst, v, p, x, hi, fsmInput_of_start hst hi⟩
    · exact .inr (fsmInput_of_not_acquire fun v p x h => hi ⟨v, p, x, h⟩)
  · exact .inr (fsmInput_of_busy s hst)

theorem fsmInput_pullEn (s : State) : (fsmInput s).pullEn = s.regs.pullEn := by
  rcases fsmInput_cases s with ⟨_, v, p, x, _, h⟩ | h <;> rw [h] <;> rfl

/-! ## What FsmStep writes -/

/-- IDLE writes no field (R114). -/
theorem fsmStep_of_idle {p : Params} {s : Regs} (h : s.st = .idle) (s' : Regs) : fsmStep p s s' = .next s' := by
  unfold fsmStep
  rw [h]
  rfl

/-- FsmStep never writes the synchronizer, the acquisition's arguments or the limit. -/
theorem fsmStep_frame {p : Params} {s s' r : Regs} (h : fsmStep p s s' = .next r) :
    r.sync1 = s'.sync1 ∧ r.sync2 = s'.sync2 ∧ r.varQ = s'.varQ ∧ r.puQ = s'.puQ ∧ r.toLimit = s'.toLimit := by
  rcases fsmStep_cases h with ⟨_, rfl⟩ | ⟨row, _, _, ⟨_, rfl⟩ | ⟨_, rfl⟩⟩
    | ⟨row, _, _, ⟨_, rfl⟩ | ⟨_, _, rfl⟩ | ⟨_, _, rfl⟩⟩ | ⟨_, rfl⟩ | ⟨_, _, rfl⟩ | ⟨_, _, rfl⟩ <;>
    exact ⟨rfl, rfl, rfl, rfl, rfl⟩

/-- FsmStep leaves `pull_en` alone, or sets it at the end of a REQ with `pu_q` = 1 (R104). -/
theorem fsmStep_pullEn {p : Params} {s s' r : Regs} (h : fsmStep p s s' = .next r) :
    r.pullEn = s'.pullEn ∨ (s.st = .req ∧ r.st = .settle ∧ s.puQ = true ∧ r.pullEn = true) := by
  rcases fsmStep_cases h with ⟨_, rfl⟩ | ⟨row, hrow, hst, ⟨_, rfl⟩ | ⟨_, rfl⟩⟩
    | ⟨row, _, _, ⟨_, rfl⟩ | ⟨_, _, rfl⟩ | ⟨_, _, rfl⟩⟩ | ⟨_, rfl⟩ | ⟨_, _, rfl⟩ | ⟨_, _, rfl⟩
  · exact .inl rfl
  · simp only [timedRows, List.mem_cons, List.not_mem_nil, or_false] at hrow
    rcases hrow with rfl | rfl | rfl
    · cases hp : s.puQ <;> simp [hst]
    · simp
    · simp
  all_goals exact .inl rfl

/-- FsmStep enters legal phases only: a phase that it leaves as it finds it, or a successor in one of its tables. -/
theorem fsmStep_legal {p : Params} {s s' r : Regs} (h : fsmStep p s s' = .next r) (hs' : s'.st.legal = true) :
    r.st.legal = true := by
  rcases fsmStep_cases h with ⟨_, rfl⟩ | ⟨row, hrow, _, ⟨_, rfl⟩ | ⟨_, rfl⟩⟩
    | ⟨row, hrow, _, ⟨_, rfl⟩ | ⟨_, _, rfl⟩ | ⟨_, _, rfl⟩⟩ | ⟨_, rfl⟩ | ⟨_, _, rfl⟩ | ⟨_, _, rfl⟩
  · exact hs'
  · simp only [timedRows, List.mem_cons, List.not_mem_nil, or_false] at hrow
    rcases hrow with rfl | rfl | rfl <;> rfl
  · exact hs'
  · simp only [waitRows, List.mem_cons, List.not_mem_nil, or_false] at hrow
    rcases hrow with rfl | rfl | rfl | rfl | rfl <;> rfl
  · rfl
  · exact hs'
  · dsimp only
    split <;> rfl
  · rfl
  · rfl

/-! ## One step without reset -/

/-- A step that goes on without reset has run FsmStep over `fsmInput`. -/
theorem fsmStep_of_step {s t : State} (h : step s = .next t) (hr : (inputNow s).rst = false) :
    fsmStep s.cfg s.regs (fsmInput s) = .next t.regs := by
  obtain ⟨_, _, _, _, _, ⟨hr', _⟩ | ⟨_, hf⟩⟩ := step_next_cases s t h
  · rw [hr] at hr'; cases hr'
  · exact hf

/-- Settles O27: only a legal phase steps on, the host can only enter REQ, and FsmStep enters legal phases only. -/
theorem reservedPhaseFaultsAndIsNeverEntered : Obligations.ReservedPhaseFaultsAndIsNeverEntered := by
  refine ⟨?_, ?_, rfl⟩
  · rintro s k ⟨hok, hr, hst⟩
    rw [step_eq s hok, hr, fsmStep_of_reserved _ _ _ k hst]
    rfl
  · intro s t h
    obtain ⟨_, _, _, _, _, ⟨_, hreset⟩ | ⟨_, hf⟩⟩ := step_next_cases s t h
    · rw [hreset]; rfl
    · refine fsmStep_legal hf ?_
      have hlegal := legal_of_fsmStep hf
      rcases fsmInput_cases s with ⟨_, v, p, x, _, he⟩ | he <;> rw [he]
      · rfl
      · exact hlegal

/-- Settles O29: FsmStep writes none of these fields but `pull_en`, and the host's half writes the operands at an
accepted START and the limit at a WR_TIMEOUT. -/
theorem stickyFieldsChangeOnlyAsListed : Obligations.StickyFieldsChangeOnlyAsListed := by
  intro s t h hr
  have hf := fsmStep_of_step h hr
  obtain ⟨_, _, hv, hp, hl⟩ := fsmStep_frame hf
  have hpull := fsmStep_pullEn hf
  rw [fsmInput_pullEn] at hpull
  refine ⟨?_, ?_, ?_, hl.trans (fsmInput_toLimit s)⟩
  · rw [hv, hp]
    rcases fsmInput_cases s with ⟨hst, v, p, x, hi, he⟩ | he <;> rw [he]
    · exact fun _ => ⟨hst, x, hi⟩
    · exact fun hne => absurd rfl (hne.resolve_left (absurd rfl))
  · intro hold
    rcases hpull with h | ⟨_, _, _, h⟩
    · exact h.trans hold
    · exact h
  · intro hold hnew
    rcases hpull with h | ⟨hst, hst', hpu, _⟩
    · rw [h, hold] at hnew; cases hnew
    · exact ⟨hst, hst', hpu⟩

/-! ## FsmStep carries the ports' fields through -/

/-- The two fields of a record that the ports write in any phase: the first flop and the limit. -/
def setPorts (d : Bool) (l : BitVec 16) (r : Regs) : Regs := { r with sync1 := d, toLimit := l }

theorem timedPhase_setPorts (dur : Nat) (q : Phase) (f : Regs → Regs) (s s' : Regs) (d : Bool) (l : BitVec 16)
    (hf : ∀ r, f (setPorts d l r) = setPorts d l (f r)) :
    timedPhase dur q f s (setPorts d l s') = setPorts d l (timedPhase dur q f s s') := by
  unfold timedPhase
  split
  · exact hf (enterPhase q s')
  · rfl

theorem waitPhase_setPorts (p : Params) (ph : Phase) (lv : Bool) (q : Phase) (c : ErrCode) (s s' : Regs) (d : Bool)
    (l : BitVec 16) :
    waitPhase p ph lv q c s (setPorts d l s') = setPorts d l (waitPhase p ph lv q c s s') := by
  unfold waitPhase
  split
  · rfl
  · split <;> rfl

theorem releaseLine_setPorts (s r : Regs) (d : Bool) (l : BitVec 16) :
    releaseLine s (setPorts d l r) = setPorts d l (releaseLine s r) := by
  unfold releaseLine
  split <;> rfl

theorem phaseConvert_setPorts (p : Params) (s s' : Regs) (d : Bool) (l : BitVec 16) :
    phaseConvert p s (setPorts d l s') = setPorts d l (phaseConvert p s s') := by
  unfold phaseConvert
  split <;> rfl

/-- FsmStep neither reads from the next record nor writes the two fields of the ports: writing them before it or after
it is the same. -/
theorem fsmStep_setPorts {p : Params} {s s' r : Regs} (h : fsmStep p s s' = .next r) (d : Bool) (l : BitVec 16) :
    fsmStep p s (setPorts d l s') = .next (setPorts d l r) := by
  unfold fsmStep at h ⊢
  cases hs : s.st <;> rw [hs] at h <;> cases h
  case idle | bitSample => rfl
  case req => exact congrArg _ (timedPhase_setPorts _ _ _ s s' d l fun r => releaseLine_setPorts s r d l)
  case settle | bitDelay => exact congrArg _ (timedPhase_setPorts _ _ id s s' d l fun _ => rfl)
  case convert => exact congrArg _ (phaseConvert_setPorts p s s' d l)
  all_goals exact congrArg _ (waitPhase_setPorts p _ _ _ _ s s' d l)

/-- The level on `dq_in` reaches the first flop of the record FsmStep writes over, and nothing else of it. -/
theorem fsmInput_placeInputs_dqIn (s : State) (b : Bool) :
    fsmInput (placeInputs { inputNow s with dqIn := b } s) = setPorts b (fsmInput s).toLimit (fsmInput s) := rfl

/-- Settles O20: the synchronizer's fields pass through FsmStep, and so does a changed level. -/
theorem synchronizerDelaysTheLineTwoCycles : Obligations.SynchronizerDelaysTheLineTwoCycles := by
  intro s t h hr
  have hf := fsmStep_of_step h hr
  obtain ⟨h1, h2, _, _, hl⟩ := fsmStep_frame hf
  refine ⟨h1, h2, ?_, ?_⟩
  · intro u hu hru
    obtain ⟨_, hu2, _⟩ := fsmStep_frame (fsmStep_of_step hu hru)
    exact hu2.trans h1
  · intro b u hu
    have hfu := fsmStep_of_step hu hr
    rw [fsmInput_placeInputs_dqIn, ← hl] at hfu
    have hset := fsmStep_setPorts hf b t.regs.toLimit
    exact Host.Outcome.next.inj (hfu.symm.trans hset)

/-! ## R20 in the spec's order -/

/-- What a transaction writes over a record `s'` when it is accepted by the present record `s`. -/
def hostEffect (i : Instr) (s s' : Regs) : Regs :=
  match i with
  | .acquire v p _ => if s.st == .idle then startAcquisition v p s' else s'
  | .wrTimeout l _ => setLimit l s'
  | _ => s'

/-- The transaction's writes and the synchronizer's may be made in either order. -/
theorem synchronize_afterHost (d : Bool) (i : Instr) (s : Regs) :
    synchronize d s (afterHost i s) = hostEffect i s (synchronize d s s) := by
  cases i with
  | acquire v p x => simp only [afterHost, hostEffect]; split <;> rfl
  | _ => rfl

/-- Outside IDLE a transaction writes the limit only. -/
theorem hostEffect_of_busy (i : Instr) {s : Regs} (h : s.st ≠ .idle) (r : Regs) :
    hostEffect i s r = setPorts r.sync1 (limitAfter i r.toLimit) r := by
  cases i <;> simp [hostEffect, setPorts, limitAfter, setLimit, h]

theorem addr_eq_ctrl_iff (a : BitVec 3) : a = 0 ↔ a.getLsbD 2 = false ∧ a.getLsbD 1 = false ∧ a.getLsbD 0 = false := by
  revert a; decide

theorem addr_eq_timeout_iff (a : BitVec 3) :
    a = 4 ↔ a.getLsbD 2 = true ∧ a.getLsbD 1 = false ∧ a.getLsbD 0 = false := by
  revert a; decide

/-- A write to CTRL is an ACQUIRE or a CTRL_NOP by its bit START (R72, R182, R183). -/
theorem hostEffect_decodeCtrlWrite (d : Word) (s s' : Regs) :
    hostEffect (decodeCtrlWrite d) s s' =
      if d.getLsbD 0 && s.st == .idle then
        startAcquisition (if d.getLsbD 1 then .dht22 else .dht11) (d.getLsbD 2) s'
      else s' := by
  unfold decodeCtrlWrite
  cases d.getLsbD 0 <;> rfl

/-- HostWrite of R181, read through the decoder: the write port's word does what its transaction does. -/
theorem hostWrite_eq_hostEffect (w : BusWord) (s s' : Regs) :
    (if w.getLsbD 35 then hostWrite s (w.extractLsb' 32 3) (w.extractLsb' 0 32) s' else s')
      = hostEffect (decode w) s s' := by
  have hdata : w.extractLsb' 0 32 = busData w := rfl
  rw [hdata, ← congrArg decode (busWord_of_fields w), decode_busWord]
  generalize w.extractLsb' 32 3 = a
  simp only [hostWrite, addr_eq_ctrl_iff, addr_eq_timeout_iff, ← hostEffect_decodeCtrlWrite]
  cases w.getLsbD 35 <;> cases a.getLsbD 2 <;> cases a.getLsbD 1 <;> cases a.getLsbD 0 <;> rfl

/-- FsmStep and the transaction write no field in common, so R20's order, HostWrite over FsmStep's record, gives the
record that `step` gives (R20). -/
theorem fsmStep_fsmInput {s : State} {r : Regs}
    (h : fsmStep s.cfg s.regs (synchronize (inputNow s).dqIn s.regs s.regs) = .next r) :
    fsmStep s.cfg s.regs (fsmInput s) = .next (hostEffect (fetch s) s.regs r) := by
  by_cases hst : s.regs.st = .idle
  · rw [fsmStep_of_idle hst] at h ⊢
    cases h
    exact congrArg _ (synchronize_afterHost _ (fetch s) s.regs)
  · obtain ⟨h1, _, _, _, hl⟩ := fsmStep_frame h
    rw [hostEffect_of_busy _ hst, h1, hl, fsmInput_of_busy s hst]
    exact fsmStep_setPorts h _ _

/-- A fault of FsmStep is the present phase's, whatever the next record. -/
theorem fsmStep_fault {p : Params} {s s' : Regs} {f : Fault} (h : fsmStep p s s' = .fault f) (s'' : Regs) :
    fsmStep p s s'' = .fault f := by
  cases hs : s.st with
  | reserved k =>
    rw [fsmStep_of_reserved p s s' k hs] at h
    rw [fsmStep_of_reserved p s s'' k hs, h]
  | _ =>
    obtain ⟨r, hr⟩ := fsmStep_of_legal p s s' (by rw [hs]; rfl)
    rw [hr] at h; cases h

/-- Next(s, in) of R20, as one state machine step over the two ports' record. -/
theorem ruleNext_eq (s : State) :
    ruleNext s.cfg (inputNow s) s.regs
      = if (inputNow s).rst then .next Regs.reset else fsmStep s.cfg s.regs (fsmInput s) := by
  unfold ruleNext
  split
  · rfl
  · cases h : fsmStep s.cfg s.regs (synchronize (inputNow s).dqIn s.regs s.regs) with
    | next r =>
      rw [fsmStep_fsmInput h]
      exact congrArg _ (hostWrite_eq_hostEffect _ _ _)
    | fault f => exact (fsmStep_fault h _).symm
    | refused x => exact absurd h (fsmStep_not_refused _ _ _ x)

/-- Settles O18: `ruleNext` and `step` are one FsmStep over `fsmInput`. -/
theorem stepIsNextInTheOrderOfTheSpec : Obligations.StepIsNextInTheOrderOfTheSpec := by
  intro s hok
  rw [ruleNext_eq]
  cases hr : (inputNow s).rst
  · refine ⟨fun r h => completesWith_of_fsmStep s r hok hr h, fun f h => ?_, fun x => fsmStep_not_refused _ _ _ x⟩
    rw [step_eq s hok, hr, if_neg Bool.false_ne_true, show fsmStep s.cfg s.regs (fsmInput s) = .fault f from h]
  · refine ⟨?_, ?_, ?_⟩
    · rintro r ⟨⟩
      exact completesWith_reset s hok hr
    · nofun
    · nofun

end Sys2Proof.Machine
end
section
/-! The invariant: which updates of a record keep it coherent, and that the reset state and every step are made of such
updates (10_state.md R25, R28, R36, R38, R102, R104, R113; 60_exceptions.md R300, R301, R404). -/

namespace Sys2Proof.Machine

/-! ## The ranges along the phases -/

/-- A phase in which `bit_idx` has a range is legal. -/
theorem legal_of_bitIdxFits {ph : Phase} {n : Nat} (h : bitIdxFits ph n = true) : ph.legal = true := by
  cases ph with
  | reserved k => cases h
  | _ => rfl

/-- A timed phase hands a busy successor a `bit_idx` in range, and a count of 0, which is in range too. -/
theorem ranges_of_timedRow {p : Params} (hok : p.ok = true) {row : Phase × Nat × Phase} (hrow : row ∈ timedRows p)
    {n : Nat} (hn : bitIdxFits row.1 n = true) :
    row.2.2 ≠ .idle ∧ bitIdxFits row.2.2 n = true ∧ tcntFits p row.2.2 0 = true := by
  obtain ⟨_, _, _, _, hsettle, _, _, _⟩ := params_bounds hok
  simp only [timedRows, List.mem_cons, List.not_mem_nil, or_false] at hrow
  rcases hrow with rfl | rfl | rfl
  · exact ⟨nofun, hn, decide_eq_true (Nat.zero_lt_of_lt hsettle)⟩
  · exact ⟨nofun, hn, rfl⟩
  · exact ⟨nofun, hn, rfl⟩

/-- A wait phase hands a busy successor a `bit_idx` in range, and a count of 0, which is in range too. -/
theorem ranges_of_waitRow {p : Params} (hok : p.ok = true) {row : Phase × Bool × Phase × ErrCode}
    (hrow : row ∈ waitRows) {n : Nat} (hn : bitIdxFits row.1 n = true) :
    row.2.2.1 ≠ .idle ∧ bitIdxFits row.2.2.1 n = true ∧ tcntFits p row.2.2.1 0 = true := by
  obtain ⟨_, _, _, _, _, _, hsample, _⟩ := params_bounds hok
  simp only [waitRows, List.mem_cons, List.not_mem_nil, or_false] at hrow
  rcases hrow with rfl | rfl | rfl | rfl | rfl
  · exact ⟨nofun, hn, rfl⟩
  · exact ⟨nofun, hn, rfl⟩
  · have hzero : n = 0 := eq_of_beq hn
    exact ⟨nofun, by rw [hzero]; rfl, rfl⟩
  · exact ⟨nofun, hn, rfl⟩
  · exact ⟨nofun, hn, decide_eq_true hsample⟩

theorem not_idle_of_timedRow {p : Params} {row : Phase × Nat × Phase} (hrow : row ∈ timedRows p) : row.1 ≠ .idle := by
  simp only [timedRows, List.mem_cons, List.not_mem_nil, or_false] at hrow
  rcases hrow with rfl | rfl | rfl <;> nofun

theorem not_idle_not_req_of_waitRow {row : Phase × Bool × Phase × ErrCode} (hrow : row ∈ waitRows) :
    row.1 ≠ .idle ∧ row.1 ≠ .req := by
  revert row; decide

/-- A timed phase that stays counts within its range, without a wrap. -/
theorem tcntFits_of_timedRow {p : Params} (hok : p.ok = true) {row : Phase × Nat × Phase} (hrow : row ∈ timedRows p)
    {n : Nat} (hn : n < row.2.1) : n < 2 ^ 32 ∧ tcntFits p row.1 n = true := by
  obtain ⟨_, _, _, hreq, _, hsettle, _, hsample⟩ := params_bounds hok
  simp only [timedRows, List.mem_cons, List.not_mem_nil, or_false] at hrow
  rcases hrow with rfl | rfl | rfl
  · exact ⟨Nat.lt_of_lt_of_le hn hreq, decide_eq_true hn⟩
  · exact ⟨Nat.lt_of_lt_of_le hn hsettle, decide_eq_true hn⟩
  · exact ⟨Nat.lt_of_lt_of_le hn hsample, decide_eq_true hn⟩

theorem tcntFits_of_waitRow (p : Params) {row : Phase × Bool × Phase × ErrCode} (hrow : row ∈ waitRows) (n : Nat) :
    tcntFits p row.1 n = true := by
  simp only [waitRows, List.mem_cons, List.not_mem_nil, or_false] at hrow
  rcases hrow with rfl | rfl | rfl | rfl | rfl <;> rfl

/-- One more sampled bit fills one more bit of the frame (R113, R140). -/
theorem shiftIn_lt (f : Frame) (b : Bool) {n : Nat} (h : f.toNat < 2 ^ n) : (shiftIn f b).toNat < 2 ^ (n + 1) := by
  unfold shiftIn
  rw [BitVec.toNat_or]
  refine Nat.or_lt_two_pow ?_ ?_
  · rw [BitVec.toNat_shiftLeft, Nat.shiftLeft_eq]
    have := Nat.mod_le (f.toNat * 2 ^ 1) (2 ^ 40)
    omega
  · cases b <;> simp

/-! ## Updates that keep a record coherent -/

section
variable {p : Params} {r : Regs}

/-- The invariant does not speak of the synchronizer and the limit. -/
theorem Coherent.ports (h : Coherent p r) (d1 d2 : Bool) (l : BitVec 16) :
    Coherent p { r with sync1 := d1, sync2 := d2, toLimit := l } :=
  ⟨h.phaseLegal, h.bits, h.count, h.frameFits, h.pullUp, h.whileBusy, h.atRest⟩

/-- An accepted START makes any record coherent: everything the invariant speaks of in REQ is written. -/
theorem coherent_startAcquisition (hok : p.ok = true) (v : SensorVariant) (pu : Bool) (r : Regs) :
    Coherent p (startAcquisition v pu r) where
  phaseLegal := rfl
  bits := rfl
  count := by
    obtain ⟨_, _, hreq, _⟩ := params_bounds hok
    exact decide_eq_true hreq
  frameFits := Nat.one_pos
  pullUp := fun h => absurd rfl h
  whileBusy := fun _ => ⟨⟨rfl, rfl, rfl⟩, rfl, rfl, rfl⟩
  atRest := nofun

/-- A record that stays in its phase and counts. -/
theorem Coherent.counted (h : Coherent p r) {n : BitVec 32} (hn : tcntFits p r.st n.toNat = true) :
    Coherent p { r with tcnt := n } :=
  ⟨h.phaseLegal, h.bits, hn, h.frameFits, h.pullUp, h.whileBusy, h.atRest⟩

/-- A busy record that enters another busy phase with a count of 0, with the pull-up that its arguments ask for. -/
theorem Coherent.entered (h : Coherent p r) (hb : r.st ≠ .idle) {q : Phase} {pull : Bool} (hq : q ≠ .idle)
    (hbits : bitIdxFits q r.bitIdx.toNat = true) (hcount : tcntFits p q 0 = true)
    (hpull : r.puQ = true → pull = true) :
    Coherent p { r with st := q, tcnt := 0, pullEn := pull } where
  phaseLegal := legal_of_bitIdxFits hbits
  bits := hbits
  count := hcount
  frameFits := h.frameFits
  pullUp := fun _ => hpull
  whileBusy := fun _ => h.whileBusy hb
  atRest := fun hst => absurd hst hq

/-- A record at rest that shows one of the outcomes of R300, or is fresh from reset. -/
theorem coherent_at_rest (hst : r.st = .idle) (hcount : r.tcnt = 0) (hbits : r.bitIdx.toNat ≤ 40)
    (hframe : r.frame.toNat < 2 ^ r.bitIdx.toNat) (hpull : r.puQ = true → r.pullEn = true)
    (hout : outcomeFresh r ∨ outcomePassed r ∨ outcomeFailed r ∨ outcomeNoResponse r ∨ outcomeTimingError r) :
    Coherent p r where
  phaseLegal := by rw [hst]; rfl
  bits := by rw [hst]; exact decide_eq_true hbits
  count := by rw [hst, hcount]; rfl
  frameFits := hframe
  pullUp := fun _ => hpull
  whileBusy := fun hb => absurd hst hb
  atRest := fun _ => hout

theorem coherent_reset (p : Params) : Coherent p Regs.reset :=
  coherent_at_rest rfl rfl (by decide) Nat.one_pos nofun (.inl ⟨rfl, ⟨rfl, rfl, rfl⟩, ⟨rfl, rfl⟩, rfl, rfl⟩)

/-- A timeout shows the third outcome of R300 in RESP_WAIT_H and the fourth in the other wait phases, where `bit_idx`
is at most 39. -/
theorem Coherent.outcome_of_timeout (h : Coherent p r) {row : Phase × Bool × Phase × ErrCode} (hrow : row ∈ waitRows)
    (hst : r.st = row.1) :
    r.bitIdx.toNat ≤ 39
    ∧ (outcomeNoResponse (failTimeout row.2.2.2 row.1 r) ∨ outcomeTimingError (failTimeout row.2.2.2 row.1 r)) := by
  obtain ⟨hread, _, _⟩ := h.whileBusy (hst ▸ (not_idle_not_req_of_waitRow hrow).1)
  have hbits : bitIdxFits row.1 r.bitIdx.toNat = true := hst ▸ h.bits
  have hzero : bitIdxFits .req r.bitIdx.toNat = true → r.bitIdx = 0 := fun hn => BitVec.eq_of_toNat_eq (eq_of_beq hn)
  simp only [waitRows, List.mem_cons, List.not_mem_nil, or_false] at hrow
  rcases hrow with rfl | rfl | rfl | rfl | rfl
  · exact ⟨by rw [hzero hbits]; decide, .inl ⟨rfl, hread, rfl, rfl, hzero hbits⟩⟩
  · exact ⟨by rw [hzero hbits]; decide, .inr ⟨rfl, hread, rfl, .inl ⟨.inl rfl, hzero hbits⟩⟩⟩
  · exact ⟨by rw [hzero hbits]; decide, .inr ⟨rfl, hread, rfl, .inl ⟨.inr rfl, hzero hbits⟩⟩⟩
  · have hle : r.bitIdx.toNat ≤ 39 := of_decide_eq_true hbits
    exact ⟨hle, .inr ⟨rfl, hread, rfl, .inr ⟨.inl rfl, hle⟩⟩⟩
  · have hle : r.bitIdx.toNat ≤ 39 := of_decide_eq_true hbits
    exact ⟨hle, .inr ⟨rfl, hread, rfl, .inr ⟨.inr rfl, hle⟩⟩⟩

theorem Coherent.timedOut (h : Coherent p r) {row : Phase × Bool × Phase × ErrCode} (hrow : row ∈ waitRows)
    (hst : r.st = row.1) : Coherent p (failTimeout row.2.2.2 row.1 r) := by
  obtain ⟨hle, hout⟩ := h.outcome_of_timeout hrow hst
  exact coherent_at_rest rfl rfl (hle.trans (by decide)) h.frameFits
    (h.pullUp (hst ▸ (not_idle_not_req_of_waitRow hrow).2)) (.inr (.inr (.inr hout)))

/-- BIT_SAMPLE leads to a coherent BIT_GAP_H or CONVERT: the frame and the count grow together (R113). -/
theorem Coherent.sampled (h : Coherent p r) (hst : r.st = .bitSample) (b : Bool) :
    Coherent p { r with
      frame := shiftIn r.frame b, bitIdx := r.bitIdx + 1, tcnt := 0,
      st := if r.bitIdx == 39 then .convert else .bitGapH } := by
  have hle : r.bitIdx.toNat ≤ 39 := of_decide_eq_true (hst ▸ h.bits : bitIdxFits .bitSample r.bitIdx.toNat = true)
  have hsucc : (r.bitIdx + 1).toNat = r.bitIdx.toNat + 1 :=
    BitVec.toNat_add_of_lt (show r.bitIdx.toNat + 1 < 2 ^ 6 by omega)
  have hframe : (shiftIn r.frame b).toNat < 2 ^ (r.bitIdx + 1).toNat := by
    rw [hsucc]; exact shiftIn_lt r.frame b h.frameFits
  have hbusy := h.whileBusy (by rw [hst]; nofun)
  have hpull := h.pullUp (by rw [hst]; nofun)
  by_cases hlast : r.bitIdx = 39
  · rw [if_pos (beq_iff_eq.mpr hlast)]
    refine ⟨rfl, ?_, rfl, hframe, fun _ => hpull, fun _ => hbusy, nofun⟩
    rw [hlast]; rfl
  · have hlt : r.bitIdx.toNat ≠ 39 := fun hn => hlast (BitVec.eq_of_toNat_eq hn)
    rw [if_neg (by rw [beq_iff_eq]; exact hlast)]
    refine ⟨rfl, decide_eq_true ?_, rfl, hframe, fun _ => hpull, fun _ => hbusy, nofun⟩
    rw [hsucc]; omega

/-- CONVERT with a passing checksum ends with the first outcome of R300. -/
theorem Coherent.passed (h : Coherent p r) (hst : r.st = .convert) (hf : frameOk r.frame = true) :
    Coherent p { r with
      temp := signedWord (convertFrame r.varQ r.frame).1, hum := signedWord (convertFrame r.varQ r.frame).2,
      success := true, done := true, st := .idle, tcnt := 0 } := by
  obtain ⟨_, _, herr⟩ := h.whileBusy (by rw [hst]; nofun)
  have hn : r.bitIdx.toNat = 40 := eq_of_beq (hst ▸ h.bits : bitIdxFits .convert r.bitIdx.toNat = true)
  exact coherent_at_rest rfl rfl hn.le h.frameFits (h.pullUp (by rw [hst]; nofun))
    (.inr (.inl ⟨rfl, rfl, herr, BitVec.eq_of_toNat_eq hn, hf, rfl, rfl⟩))

/-- CONVERT with a failing checksum ends with the second outcome of R300. -/
theorem Coherent.failed (h : Coherent p r) (hst : r.st = .convert) (hf : frameOk r.frame = false) :
    Coherent p { r with success := false, done := true, st := .idle, tcnt := 0 } := by
  obtain ⟨⟨ht, hh, _⟩, _, herr⟩ := h.whileBusy (by rw [hst]; nofun)
  have hn : r.bitIdx.toNat = 40 := eq_of_beq (hst ▸ h.bits : bitIdxFits .convert r.bitIdx.toNat = true)
  exact coherent_at_rest rfl rfl hn.le h.frameFits (h.pullUp (by rw [hst]; nofun))
    (.inr (.inr (.inl ⟨rfl, ⟨ht, hh, rfl⟩, herr, BitVec.eq_of_toNat_eq hn, hf⟩)))

end

/-! ## The reset state and every step -/

/-- Settles O40: RESET_STATE is a fresh record at rest, and the default parameters are legal. -/
theorem resetStateIsSafe : Obligations.ResetStateIsSafe :=
  ⟨⟨by decide, coherent_reset _⟩, fun p hp => ⟨hp, coherent_reset p⟩⟩

theorem coherent_clocked {s : State} (h : Coherent s.cfg s.regs) : Coherent s.cfg (clocked s) :=
  h.ports _ _ _

/-- The ports' half of a cycle keeps the record coherent. -/
theorem coherent_fsmInput {s : State} (h : Safe s) : Coherent s.cfg (fsmInput s) := by
  obtain ⟨hok, hc⟩ := h
  rcases fsmInput_cases s with ⟨_, v, p, x, _, he⟩ | he <;> rw [he]
  · exact coherent_startAcquisition hok v p _
  · exact coherent_clocked hc

/-- FsmStep keeps the record coherent: each of its outcomes is one of the updates above. -/
theorem coherent_fsmStep {s : State} {r : Regs} (h : Safe s) (hf : fsmStep s.cfg s.regs (fsmInput s) = .next r) :
    Coherent s.cfg r := by
  by_cases hidle : s.regs.st = .idle
  · rw [fsmStep_of_idle hidle] at hf
    cases hf
    exact coherent_fsmInput h
  obtain ⟨hok, hs⟩ := h
  have hc := coherent_clocked hs
  rw [fsmInput_of_busy s hidle] at hf
  rcases fsmStep_cases hf with ⟨hst, _⟩ | ⟨row, hrow, hst, ⟨_, rfl⟩ | ⟨hlt, rfl⟩⟩
    | ⟨row, hrow, hst, ⟨_, rfl⟩ | ⟨_, _, rfl⟩ | ⟨_, _, rfl⟩⟩ | ⟨hst, rfl⟩ | ⟨hst, hsum, rfl⟩ | ⟨hst, hsum, rfl⟩
  · exact absurd hst hidle
  · obtain ⟨hq, hbits, hcount⟩ := ranges_of_timedRow hok hrow (hst ▸ hs.bits)
    refine hc.entered hidle hq hbits hcount fun hpu => ?_
    by_cases hreq : row.1 = .req
    · simp [hreq, show s.regs.puQ = true from hpu]
    · rw [hc.pullUp (hst ▸ hreq) hpu, Bool.true_or]
  · obtain ⟨hn, hfits⟩ := tcntFits_of_timedRow hok hrow hlt
    refine hc.counted ?_
    rw [BitVec.toNat_ofNat, Nat.mod_eq_of_lt hn]
    exact hst ▸ hfits
  · obtain ⟨hq, hbits, hcount⟩ := ranges_of_waitRow hok hrow (hst ▸ hs.bits)
    exact hc.entered hidle hq hbits hcount (hc.pullUp (hst ▸ (not_idle_not_req_of_waitRow hrow).2))
  · exact hc.timedOut hrow hst
  · exact hc.counted (hst ▸ tcntFits_of_waitRow s.cfg hrow _)
  · exact hc.sampled hst _
  · exact hc.passed hst hsum
  · exact hc.failed hst hsum

/-- Settles O41: a reset cycle leaves the reset record, and any other one FsmStep's. -/
theorem everyStepKeepsTheMachineSafe : Obligations.EveryStepKeepsTheMachineSafe := by
  intro s t h hstep
  obtain ⟨hok, hcfg, _, _, _, ⟨_, hreset⟩ | ⟨_, hf⟩⟩ := step_next_cases s t hstep
  · exact ⟨hcfg ▸ hok, hreset ▸ coherent_reset _⟩
  · refine ⟨hcfg ▸ hok, ?_⟩
    rw [hcfg]
    exact coherent_fsmStep h hf

/-- Settles O42: the parameters are legal, so nothing is refused, and the phase is legal, so nothing faults. -/
theorem safeMachineAlwaysSteps : Obligations.SafeMachineAlwaysSteps := by
  rintro s ⟨hok, hc⟩
  cases hr : (inputNow s).rst
  · obtain ⟨r, hf⟩ := fsmStep_of_legal s.cfg s.regs (fsmInput s) hc.phaseLegal
    exact ⟨_, completesWith_of_fsmStep s r hok hr hf⟩
  · exact ⟨_, completesWith_reset s hok hr⟩

end Sys2Proof.Machine
end
section
/-! Runs of a timed phase, and the request pulse (40_sequencer.md R102; 10_state.md R35). -/

namespace Sys2Proof.Machine

/-- In a phase of the table of timed phases, FsmStep is TimedPhase with the row's duration and successor; REQ's exit
action is ReleaseLine (R103 to R105, R112). -/
theorem fsmStep_of_timedRow {p : Params} {s : Regs} {row : Phase × Nat × Phase} (hrow : row ∈ timedRows p)
    (hst : s.st = row.1) (s' : Regs) :
    fsmStep p s s' = .next (timedPhase row.2.1 row.2.2 (if row.1 == .req then releaseLine s else id) s s') := by
  unfold fsmStep
  simp only [timedRows, List.mem_cons, List.not_mem_nil, or_false] at hrow
  rcases hrow with rfl | rfl | rfl <;> rw [hst] <;> rfl

theorem releaseLine_st (s r : Regs) : (releaseLine s r).st = r.st := by
  unfold releaseLine
  split <;> rfl

theorem releaseLine_tcnt (s r : Regs) : (releaseLine s r).tcnt = r.tcnt := by
  unfold releaseLine
  split <;> rfl

theorem one_le_of_timedRow {p : Params} (hok : p.ok = true) {row : Phase × Nat × Phase} (hrow : row ∈ timedRows p) :
    1 ≤ row.2.1 := by
  obtain ⟨_, _, hreq, _, hsettle, _, hsample, _⟩ := params_bounds hok
  simp only [timedRows, List.mem_cons, List.not_mem_nil, or_false] at hrow
  rcases hrow with rfl | rfl | rfl
  · exact hreq
  · exact Nat.le_of_lt hsettle
  · exact hsample

/-- A timed phase completes its cycle, whatever the line and the host do. -/
theorem completesWith_timedPhase {s : State} {row : Phase × Nat × Phase} (hrow : row ∈ timedRows s.cfg)
    (h : runsPhase s row.1) :
    completesWith s
      (timedPhase row.2.1 row.2.2 (if row.1 == .req then releaseLine s.regs else id) s.regs (clocked s)) := by
  have hst : s.regs.st = row.1 := h.2.2
  exact completesWith_of_busy h (not_idle_of_timedRow hrow) _ (fsmStep_of_timedRow hrow hst _)

/-- A timed phase whose duration is not over stays and counts. -/
theorem step_timedRow_counts {s : State} {row : Phase × Nat × Phase} (hrow : row ∈ timedRows s.cfg)
    (h : runsPhase s row.1) (hlt : s.regs.tcnt.toNat + 1 < row.2.1) :
    ∃ t, step s = .next t ∧ t.regs.st = row.1 ∧ t.regs.tcnt.toNat = s.regs.tcnt.toNat + 1 := by
  have hstep := completesWith_timedPhase hrow h
  obtain ⟨hok, _, hst⟩ := h
  unfold timedPhase at hstep
  rw [if_neg (Nat.not_le.mpr hlt)] at hstep
  exact ⟨_, hstep, hst, (BitVec.toNat_ofNat _ _).trans (Nat.mod_eq_of_lt (tcntFits_of_timedRow hok hrow hlt).1)⟩

/-- A timed phase whose duration is over enters its successor with a count of 0. -/
theorem step_timedRow_leaves {s : State} {row : Phase × Nat × Phase} (hrow : row ∈ timedRows s.cfg)
    (h : runsPhase s row.1) (hle : row.2.1 ≤ s.regs.tcnt.toNat + 1) :
    ∃ t, step s = .next t ∧ t.regs.st = row.2.2 ∧ t.regs.tcnt = 0 := by
  have hstep := completesWith_timedPhase hrow h
  unfold timedPhase at hstep
  rw [if_pos hle] at hstep
  refine ⟨_, hstep, ?_⟩
  cases row.1 == .req
  · exact ⟨rfl, rfl⟩
  · exact ⟨releaseLine_st _ _, releaseLine_tcnt _ _⟩

/-- A timed phase entered with a count of 0 counts its cycles, as long as its duration is not over. -/
theorem run_timedRow_counts {s : State} {row : Phase × Nat × Phase} (hrow : row ∈ timedRows s.cfg)
    (hok : s.cfg.ok = true) (hst : s.regs.st = row.1) (hzero : s.regs.tcnt = 0) (k : Nat) (hk : k < row.2.1)
    (hr : ∀ j, j < k → (inputAt s j).rst = false) :
    ∃ t, run k s = .next t ∧ t.regs.st = row.1 ∧ t.regs.tcnt.toNat = k := by
  induction k with
  | zero => exact ⟨s, rfl, hst, by rw [hzero]; rfl⟩
  | succ k ih =>
    obtain ⟨t, ht, htst, htcnt⟩ := ih (by omega) fun j hj => hr j (by omega)
    obtain ⟨hcfg, hin⟩ := run_frame k s t ht
    have hrt : (inputNow t).rst = false := (congrArg Inputs.rst (hin 0)).trans (hr k (by omega))
    obtain ⟨u, hu, hust, hucnt⟩ := step_timedRow_counts (hcfg ▸ hrow) ⟨hcfg ▸ hok, hrt, htst⟩ (htcnt ▸ hk)
    exact ⟨u, (run_succ k s t ht).trans hu, hust, by rw [hucnt, htcnt]⟩

/-- A timed phase entered with a count of 0 is over after its duration, and its successor starts with a count of 0. -/
theorem run_timedRow_leaves {s : State} {row : Phase × Nat × Phase} (hrow : row ∈ timedRows s.cfg)
    (hok : s.cfg.ok = true) (hst : s.regs.st = row.1) (hzero : s.regs.tcnt = 0)
    (hr : ∀ j, j < row.2.1 → (inputAt s j).rst = false) :
    ∃ t, run row.2.1 s = .next t ∧ t.regs.st = row.2.2 ∧ t.regs.tcnt = 0 := by
  obtain ⟨k, hk⟩ := Nat.exists_eq_add_of_le' (one_le_of_timedRow hok hrow)
  obtain ⟨t, ht, htst, htcnt⟩ :=
    run_timedRow_counts hrow hok hst hzero k (by omega) fun j hj => hr j (by omega)
  obtain ⟨hcfg, hin⟩ := run_frame k s t ht
  have hrt : (inputNow t).rst = false := (congrArg Inputs.rst (hin 0)).trans (hr k (by omega))
  obtain ⟨u, hu, huout⟩ := step_timedRow_leaves (hcfg ▸ hrow) ⟨hcfg ▸ hok, hrt, htst⟩ (by omega)
  exact ⟨u, by rw [hk, run_succ k s t ht, hu], huout⟩

/-- A cycle with an accepted START leads to the first cycle of REQ, on the inputs to come. -/
theorem step_of_start {s : State} {v : SensorVariant} {p : Bool} {x : BitVec 29} (h : runsPhase s .idle)
    (hi : fetch s = .acquire v p x) :
    ∃ t, step s = .next t ∧ t.cfg = s.cfg ∧ t.regs.st = .req ∧ t.regs.tcnt = 0
      ∧ ∀ j, inputAt t j = inputAt s (j + 1) := by
  obtain ⟨hok, hr, hst⟩ := h
  have hf : fsmStep s.cfg s.regs (fsmInput s) = .next (startAcquisition v p (clocked s)) := by
    rw [fsmStep_of_idle hst, fsmInput_of_start hst hi]
  exact ⟨_, completesWith_of_fsmStep s _ hok hr hf, rfl, rfl, rfl, inputAt_succ_of_tail s _ rfl rfl⟩

/-- Settles O45: the START enters REQ, which lasts DUR_REQ cycles and leads to SETTLE. -/
theorem lineIsPulledLowExactlyDurReqCycles : Obligations.LineIsPulledLowExactlyDurReqCycles := by
  intro s v p x h hi hr
  obtain ⟨t, hstep, hcfg, hreq, hzero, hin⟩ := step_of_start h hi
  obtain ⟨hok, _, hst⟩ := h
  have hrow : (.req, s.cfg.durReq, .settle) ∈ timedRows t.cfg := by rw [hcfg]; exact .head _
  have hok' : t.cfg.ok = true := by rw [hcfg]; exact hok
  have hr' : ∀ j, j < s.cfg.durReq → (inputAt t j).rst = false := fun j hj => by rw [hin]; exact hr (j + 1) hj
  refine ⟨by rw [dqOe, hst]; rfl, fun k h1 hk => ?_, ?_⟩
  · obtain ⟨k, rfl⟩ := Nat.exists_eq_add_of_le' h1
    obtain ⟨u, hu, hust, _⟩ := run_timedRow_counts hrow hok' hreq hzero k hk fun j hj => hr' j (by omega)
    exact ⟨u, by rw [run_succ_of_step k s t hstep, hu], by rw [dqOe, hust]; rfl⟩
  · obtain ⟨u, hu, hust, _⟩ := run_timedRow_leaves hrow hok' hreq hzero hr'
    exact ⟨u, by rw [run_succ_of_step _ s t hstep, hu], by rw [dqOe, hust]; rfl, hust⟩

end Sys2Proof.Machine
end
section
/-! The host port (20_memory.md R52, R53, R58): what a read and a write leave unchanged, the word the host takes, and
the word placed for fetching. -/

namespace Sys2Proof.Machine

/-! ## The frame of a transaction, by the bit WE of its encoding -/

/-- A read changes no field of the block (R58). -/
theorem afterHost_of_read {i : Instr} (h : (encode i).getLsbD 35 = false) (r : Regs) : afterHost i r = r := by
  cases i
  case acquire | wrTimeout => nomatch (busWord_we true _ _).symm.trans h
  all_goals rfl

/-- A write leaves the host's word as it was. -/
theorem hostWord_of_write {i : Instr} (h : (encode i).getLsbD 35 = true) (s : State) : hostWord i s = s.rdata := by
  cases i
  case rdCtrl | rdStatus | rdTemp | rdHum | rdTimeout | rdRsvd5 | rdRsvd6 | rdRsvd7 =>
    nomatch (busWord_we false _ _).symm.trans h
  all_goals rfl

/-- Settles O16: `exec` answers with the record `afterHost` and the host's word `hostWord`, and each has its frame. -/
theorem everyTransactionCompletesWithItsFrame : Obligations.EveryTransactionCompletesWithItsFrame := fun i s =>
  ⟨_, exec_eq i s, rfl, rfl, rfl, fun h => afterHost_of_read h s.regs, fun h => hostWord_of_write h s,
    afterHost_of_not_acquire i s.regs, afterHost_of_busy i s.regs⟩

/-! ## The word the host takes in a cycle -/

theorem takenWord_of_read {s : State} (h : (inputNow s).bus.getLsbD 35 = false) : takenWord s = busRdata s := by
  rw [takenWord, h]
  rfl

theorem takenWord_of_write {s : State} (h : (inputNow s).bus.getLsbD 35 = true) : takenWord s = s.rdata := by
  rw [takenWord, h]
  rfl

/-- Settles O19: every step that goes on, a reset cycle too, leaves the host with `takenWord` of the present state. -/
theorem readsSeeThePresentState : Obligations.ReadsSeeThePresentState := by
  intro s t h
  obtain ⟨_, _, hword, _⟩ := step_next_cases s t h
  exact ⟨fun hread => hword.trans (takenWord_of_read hread), fun hwrite => hword.trans (takenWord_of_write hwrite)⟩

/-! ## The transaction on the port -/

/-- With legal parameters, a step goes on from the state its transaction has given. -/
theorem step_of_exec {s h : State} (hok : s.cfg.ok = true) (hexec : exec (fetch s) s = .next h) :
    step s = finishCycle s h := by
  unfold step
  rw [if_pos hok, hexec]

/-- A whole BUS36 word placed for fetching: it stands on the port in a cycle without reset, and the line stays. -/
theorem inputNow_withFetchWord (s : State) (w : BusWord) :
    inputNow (s.withFetchWord 36 w.toNat) = { inputNow s with rst := false, bus := w } := by
  have hword : BitVec.ofNat 36 (w.toNat % 2 ^ 36) = w := by
    rw [Nat.mod_eq_of_lt w.isLt, BitVec.ofNat_toNat, BitVec.setWidth_eq]
  rw [State.withFetchWord, inputNow_placeInputs, hword]

/-- Settles O17: `fetch` is the decoded word on the port, and a word placed there is what stands on it. -/
theorem stepRunsTheDecodedTransaction : Obligations.StepRunsTheDecodedTransaction := by
  refine ⟨?_, fun s w => ?_⟩
  · rintro s h _ hok rfl hexec
    exact step_of_exec hok hexec
  · have hin := inputNow_withFetchWord s w
    exact ⟨by rw [fetch, hin], by rw [hin], by rw [hin], rfl⟩

end Sys2Proof.Machine
end
section
/-! The encoding: decoding takes the fields apart that the encoding puts together, and the opcode map of R71 looks at
WE, ADDR and START only (30_encoding.md R70 to R72, R76). -/

namespace Sys2Proof

/-! ## The fields of the DATA word of a write -/

/-- VARIANT and its code (R72, R82). -/
@[simp] theorem variantOfBit_bit (v : SensorVariant) : variantOfBit v.bit = v := by
  cases v <;> rfl

/-- START = 1 selects ACQUIRE, and its operands are the fields above START (R72). -/
@[simp] theorem decodeCtrlWrite_acquireData (v : SensorVariant) (p : Bool) (r : BitVec 29) :
    decodeCtrlWrite (acquireData v p r) = .acquire v p r := by
  have hstart : (acquireData v p r).getLsbD 0 = true := getLsbD_acquireData v p r 0
  have hvariant : (acquireData v p r).getLsbD 1 = v.bit := getLsbD_acquireData v p r 1
  have hpullUp : (acquireData v p r).getLsbD 2 = p := getLsbD_acquireData v p r 2
  have hrsvd : (acquireData v p r).extractLsb' 3 29 = r := by
    rw [acquireData, BitVec.append_assoc, BitVec.append_assoc]
    exact BitVec.extractLsb'_append_eq_left
  rw [decodeCtrlWrite, if_pos hstart, hvariant, hpullUp, hrsvd, variantOfBit_bit]

/-- START = 0 selects CTRL_NOP, and its operand is the rest of DATA (R72, R183). -/
@[simp] theorem decodeCtrlWrite_ctrlNopData (d : BitVec 31) : decodeCtrlWrite (ctrlNopData d) = .ctrlNop d := by
  have hstart : (ctrlNopData d).getLsbD 0 = false := getLsbD_ctrlNopData d 0
  have hdata : (ctrlNopData d).extractLsb' 1 31 = d := BitVec.extractLsb'_append_eq_left
  rw [decodeCtrlWrite, if_neg (Bool.eq_false_iff.mp hstart), hdata]

/-- LIMIT_US is the low half of the DATA word of WR_TIMEOUT (R76). -/
@[simp] theorem timeoutData_limitUs (l r : BitVec 16) : (timeoutData l r).extractLsb' 0 16 = l :=
  BitVec.extractLsb'_append_eq_right

/-- The reserved bits are the high half of the DATA word of WR_TIMEOUT (R76). -/
@[simp] theorem timeoutData_rsvd (l r : BitVec 16) : (timeoutData l r).extractLsb' 16 16 = r :=
  BitVec.extractLsb'_append_eq_left

/-! ## Decoding what was encoded -/

/-- Settles O1: WE and ADDR select the constructor, and the operands are the fields of DATA. -/
theorem decodeOfEncodeIsTheTransaction : Obligations.DecodeOfEncodeIsTheTransaction := by
  intro i
  cases i with
  | acquire v p r => exact (decode_busWord true 0 _).trans (decodeCtrlWrite_acquireData v p r)
  | ctrlNop d => exact (decode_busWord true 0 _).trans (decodeCtrlWrite_ctrlNopData d)
  | wrTimeout l r =>
    exact (decode_busWord true 4 _).trans (congrArg₂ Instr.wrTimeout (timeoutData_limitUs l r) (timeoutData_rsvd l r))
  | _ => exact decode_busWord _ _ _

/-! ## What the opcode map looks at -/

/-- The mnemonics of the rows that a word belongs to. -/
def hitMnemonics (w : BusWord) : List String := (opcodeRows.filter (fun r => r.hit w)).map (fun r => r.mnemonic)

/-- The bits of a word that the opcode map looks at, WE, ADDR and START, the others 0 (R71). -/
def selector (w : BusWord) : BusWord := w &&& 0xF00000001#36

/-- A selector is one of 32 words. -/
theorem selector_eq_busWord (w : BusWord) :
    selector w = busWord (w.getLsbD 35) (w.extractLsb' 32 3) ((BitVec.ofBool (w.getLsbD 0)).setWidth 32) := by
  have hstart : (busData w).getLsbD 0 = w.getLsbD 0 := getLsbD_busData w 0
  calc selector w
      = busWord (w.getLsbD 35) (w.extractLsb' 32 3) (busData w) &&& 0xF00000001#36 := by
        rw [busWord_of_fields, selector]
    _ = _ := by rw [busWord_and_ctrl_mask, BitVec.and_one_eq_setWidth_ofBool_getLsbD, hstart]

/-- Every mask of the opcode map lies within WE, ADDR and START. -/
theorem hit_selector {r : OpcodeRow} (hr : r ∈ opcodeRows) (w : BusWord) : r.hit (selector w) = r.hit w := by
  have hmask : ∀ r ∈ opcodeRows, 0xF00000001#36 &&& r.mask = r.mask := by decide
  rw [OpcodeRow.hit, OpcodeRow.hit, selector, BitVec.and_assoc, hmask r hr]

theorem hitMnemonics_selector (w : BusWord) : hitMnemonics (selector w) = hitMnemonics w :=
  congrArg (List.map _) (List.filter_congr fun _ hr => hit_selector hr w)

/-- The mnemonic of a write to CTRL depends on START only (R71). -/
theorem mnemonic_decodeCtrlWrite (d : Word) :
    (decodeCtrlWrite d).mnemonic = if d.getLsbD 0 then "ACQUIRE" else "CTRL_NOP" := by
  unfold decodeCtrlWrite
  cases d.getLsbD 0 <;> rfl

/-- The five bits that the masks keep. -/
theorem getLsbD_selector (w : BusWord) {i : Nat} (hi : i ∈ [0, 32, 33, 34, 35]) :
    (selector w).getLsbD i = w.getLsbD i := by
  have hkept : ∀ i ∈ [0, 32, 33, 34, 35], (0xF00000001#36).getLsbD i = true := by decide
  rw [selector, BitVec.getLsbD_and, hkept i hi, Bool.and_true]

/-- The decoder's choice of transaction, too, depends on WE, ADDR and START only: START matters in a write to CTRL, and
every other arm has one mnemonic. -/
theorem mnemonic_decode_selector (w : BusWord) : (decode (selector w)).mnemonic = (decode w).mnemonic := by
  have hctrl : (decodeCtrlWrite (busData (selector w))).mnemonic = (decodeCtrlWrite (busData w)).mnemonic := by
    simp only [mnemonic_decodeCtrlWrite, getLsbD_busData, getLsbD_selector w (i := 0) (by decide)]
  unfold decode
  rw [getLsbD_selector w (i := 35) (by decide), getLsbD_selector w (i := 34) (by decide),
    getLsbD_selector w (i := 33) (by decide), getLsbD_selector w (i := 32) (by decide)]
  split
  any_goals rfl
  exact hctrl

/-- Of the 32 selectors, each belongs to the row of its own transaction and to no other. -/
theorem hitMnemonics_of_start (we : Bool) (a : BitVec 3) (start : Bool) :
    hitMnemonics (busWord we a ((BitVec.ofBool start).setWidth 32))
      = [(decode (busWord we a ((BitVec.ofBool start).setWidth 32))).mnemonic] := by
  revert we a start
  decide

/-- A BUS36 word is never wider than the port (R70). -/
theorem decodePattern_toNat (w : BusWord) : decodePattern w.toNat = .ok (decode w) := by
  rw [decodePattern, if_pos w.isLt, BitVec.ofNat_toNat, BitVec.setWidth_eq]

/-- Settles O3: both the rows and the decoder look at the selector only, and of the 32 selectors each hits its row. -/
theorem everyPatternHitsExactlyOneRow : Obligations.EveryPatternHitsExactlyOneRow := by
  intro w
  refine ⟨?_, decodePattern_toNat w⟩
  calc hitMnemonics w
      = hitMnemonics (selector w) := (hitMnemonics_selector w).symm
    _ = [(decode (selector w)).mnemonic] := by rw [selector_eq_busWord]; exact hitMnemonics_of_start _ _ _
    _ = [(decode w).mnemonic] := by rw [mnemonic_decode_selector]

end Sys2Proof
end
section
/-! The registers the host reads: STATUS, TEMP, HUM and TIMEOUT (30_encoding.md R73 to R76). -/

namespace Sys2Proof.Machine

/-! ## STATUS -/

/-- A flag's bit as a word. -/
theorem setWidth_ofBool (b : Bool) : (BitVec.ofBool b).setWidth 32 = if b then 1#32 else 0#32 := by
  cases b <;> rfl

/-- The code of a variant is 1 for DHT22 (R72, R82). -/
theorem bit_eq_true_iff (v : SensorVariant) : v.bit = true ↔ v = .dht22 := by
  cases v <;> decide

/-- BUSY is 0 in IDLE only (10_state.md R34). -/
theorem ite_busy (r : Regs) : (if busy r then 1#32 else 0#32) = if r.st = .idle then 0#32 else 1#32 := by
  by_cases h : r.st = .idle <;> simp [busy, h]

/-- The fields of STATUS, put side by side, are the terms of R73's formula: each is shifted to its place. -/
theorem statusWord_eq (r : Regs) :
    statusWord r =
      (r.bitIdx.setWidth 32 <<< 16) ||| (r.errPhase.code.setWidth 32 <<< 12) ||| (r.st.code.setWidth 32 <<< 8)
        ||| ((if r.pullEn then 1#32 else 0#32) <<< 6) ||| ((if r.varQ = .dht22 then 1#32 else 0#32) <<< 5)
        ||| (r.err.code.setWidth 32 <<< 3) ||| ((if r.success then 1#32 else 0#32) <<< 2)
        ||| ((if r.done then 1#32 else 0#32) <<< 1) ||| (if r.st = .idle then 0#32 else 1#32) := by
  have hwidth : statusWord r = (statusWord r).setWidth 32 := (BitVec.setWidth_eq _).symm
  rw [hwidth, statusWord]
  simp only [BitVec.setWidth_append_eq_shiftLeft_setWidth_or, BitVec.shiftLeft_or_distrib, ← BitVec.shiftLeft_add,
    setWidth_ofBool, bit_eq_true_iff, ite_busy]
  simp

/-- Settles O9: RD_STATUS gives `statusWord`, whose fields stand where R73's formula puts them. -/
theorem statusReadIsTheFormula : Obligations.StatusReadIsTheFormula := fun d s =>
  ⟨by rw [← statusWord_eq]; exact exec_eq (.rdStatus d) s, exec_eq (.wrStatus d) s⟩

/-! ## TEMP and HUM -/

/-- A register's pattern, as a number, is its signed value modulo 2^32 (R74, R75). -/
theorem toNat_eq_toInt_emod (w : Word) : (w.toNat : Int) = w.toInt % 2 ^ 32 := by
  have hlt : (w.toNat : Int) < 2 ^ 32 := mod_cast w.isLt
  calc (w.toNat : Int)
      = w.toNat % 2 ^ 32 := (Int.emod_eq_of_lt (Int.natCast_nonneg _) hlt).symm
    _ = w.toInt % 2 ^ 32 := by rw [BitVec.toInt_eq_toNat_bmod]; exact Int.bmod_emod.symm

/-- DHT11 humidity is a sum of bytes (42_conversion.md R161). -/
theorem hum11_nonneg (b0 b1 : Byte) : 0 ≤ hum11 b0 b1 := by
  unfold hum11; positivity

/-- DHT22 humidity is a sum of bytes (42_conversion.md R163). -/
theorem hum22_nonneg (b0 b1 : Byte) : 0 ≤ hum22 b0 b1 := by
  unfold hum22; positivity

/-- Settles O10: the host takes the register's own pattern, which is its signed value modulo 2^32. -/
theorem readingRegistersReadModulo2Pow32 : Obligations.ReadingRegistersReadModulo2Pow32 :=
  ⟨fun d s => ⟨s.regs.temp, toNat_eq_toInt_emod _, exec_eq (.rdTemp d) s, exec_eq (.wrTemp d) s⟩,
    fun d s => ⟨s.regs.hum, toNat_eq_toInt_emod _, exec_eq (.rdHum d) s, exec_eq (.wrHum d) s⟩,
    fun b0 b1 => ⟨hum11_nonneg b0 b1, hum22_nonneg b0 b1⟩⟩

/-! ## TIMEOUT -/

/-- A nibble written before DATA is WE and ADDR (R70). -/
theorem decode_nibble_append (n : BitVec 4) (d : Word) :
    decode (n ++ d) = decode (busWord (n.getLsbD 3) (n.extractLsb' 0 3) d) :=
  congrArg decode (nibble_append_eq_busWord n d)

/-- Zero-extension keeps the limit (R76). -/
theorem timeoutWord_toNat (r : Regs) : (timeoutWord r).toNat = r.toLimit.toNat :=
  BitVec.toNat_setWidth_of_le (by decide)

/-- Settles O11: each transaction has its encoding, RD_TIMEOUT gives `timeoutWord`, and WR_TIMEOUT sets the limit. -/
theorem timeoutRegisterReadsAndWrites : Obligations.TimeoutRegisterReadsAndWrites := fun d s =>
  ⟨(decode_nibble_append 0x4#4 d).trans (decode_busWord _ _ d),
    (decode_nibble_append 0xC#4 d).trans (decode_busWord _ _ d),
    ⟨timeoutWord s.regs, timeoutWord_toNat s.regs, exec_eq (.rdTimeout d) s⟩,
    fun limitUs rsvd => exec_eq (.wrTimeout limitUs rsvd) s⟩

end Sys2Proof.Machine
end
section
/-! The state machine, cycle by cycle: what each phase does to the record in one cycle, which phase comes next, and what
the line can reach (40_sequencer.md R100 to R118). -/

namespace Sys2Proof.Machine

/-! ## IDLE and the START -/

/-- Settles O13: `exec` writes the record of `afterHost`, which in IDLE is StartAcquisition's, and otherwise the
present one. -/
theorem acquireInIdleStartsAnAcquisition : Obligations.AcquireInIdleStartsAnAcquisition := by
  intro s v p x
  refine ⟨fun hst => ?_, fun hst => ?_⟩
  · rw [exec_eq, afterHost_acquire_idle v p x s.regs hst]
    rfl
  · rw [exec_eq, afterHost_of_busy _ _ hst]
    rfl

/-- A cycle of IDLE without a START writes only what the ports write (R114). -/
theorem completesWith_of_idle {s : State} (h : runsPhase s .idle) (hi : ∀ v p x, fetch s ≠ .acquire v p x) :
    completesWith s (clocked s) := by
  obtain ⟨hok, hr, hst⟩ := h
  refine completesWith_of_fsmStep s _ hok hr ?_
  rw [fsmStep_of_idle hst, fsmInput_of_not_acquire hi]

/-- Settles O21: FsmStep writes nothing in IDLE, so the record is the one that the ports leave. -/
theorem idleWritesNothing : Obligations.IdleWritesNothing := by
  intro s h
  refine ⟨?_, completesWith_of_idle h, fun v p x hi => ?_⟩
  · obtain ⟨_, _, hst⟩ := h
    rw [dqOe, hst]
    rfl
  · obtain ⟨t, hstep, _, hst, _⟩ := step_of_start h hi
    exact ⟨t, hstep, hst⟩

/-! ## The timed phases -/

/-- A timed phase that is over enters its successor; REQ, whose exit action is ReleaseLine, also sets `pull_en` when
`pu_q` is set (R102, R104). -/
theorem exitAction_enterPhase (ph q : Phase) (s s' : Regs) :
    (if ph == .req then releaseLine s else id) (enterPhase q s')
      = { s' with st := q, tcnt := 0, pullEn := s'.pullEn || (ph == .req && s.puQ) } := by
  cases ph == .req
  · simp [enterPhase]
  · cases hp : s.puQ <;> simp [releaseLine, enterPhase, hp]

/-- Settles O22: the two branches of TimedPhase, the count below a duration of at most 2^32 cycles. -/
theorem timedPhaseCycle : Obligations.TimedPhaseCycle := by
  intro s row hrow h
  have hstep := completesWith_timedPhase hrow h
  obtain ⟨hok, _⟩ := h
  refine ⟨fun hle => ?_, fun hlt => ?_⟩
  · rw [timedPhase, if_pos hle, exitAction_enterPhase] at hstep
    exact hstep
  · rw [timedPhase, if_neg (Nat.not_le.mpr hlt)] at hstep
    exact ⟨_, (BitVec.toNat_ofNat _ _).trans (Nat.mod_eq_of_lt (tcntFits_of_timedRow hok hrow hlt).1), hstep⟩

/-- Settles O26: the last cycle of REQ is a timed phase's last cycle, with SETTLE as the successor. -/
theorem reqEndReleasesTheLine : Obligations.ReqEndReleasesTheLine := by
  intro s h hle
  have hstep := (timedPhaseCycle s (.req, s.cfg.durReq, .settle) (.head _) h).1 hle
  obtain ⟨_, _, hst⟩ := h
  refine ⟨_, hstep, by rw [dqOe, hst]; rfl, rfl, rfl, fun hp => ?_, fun hp => ?_⟩ <;> simp [hp]

/-- Settles O44: the count goes up to the duration, and the phase is left at the end of that cycle. -/
theorem timedPhaseLastsExactlyItsDuration : Obligations.TimedPhaseLastsExactlyItsDuration :=
  fun _ _ hrow hok hst hzero hr =>
    ⟨fun k hk => run_timedRow_counts hrow hok hst hzero k hk fun j hj => hr j (hj.trans hk),
      run_timedRow_leaves hrow hok hst hzero hr⟩

/-! ## The wait phases -/

/-- In a phase of the table of wait phases, FsmStep is WaitPhase with the row's level, successor and code (R107 to
R111). -/
theorem fsmStep_of_waitRow {s : Regs} {row : Phase × Bool × Phase × ErrCode} (hrow : row ∈ waitRows)
    (hst : s.st = row.1) (p : Params) (s' : Regs) :
    fsmStep p s s' = .next (waitPhase p row.1 row.2.1 row.2.2.1 row.2.2.2 s s') := by
  unfold fsmStep
  simp only [waitRows, List.mem_cons, List.not_mem_nil, or_false] at hrow
  rcases hrow with rfl | rfl | rfl | rfl | rfl <;> rw [hst] <;> rfl

theorem completesWith_waitPhase {s : State} {row : Phase × Bool × Phase × ErrCode} (hrow : row ∈ waitRows)
    (h : runsPhase s row.1) :
    completesWith s (waitPhase s.cfg row.1 row.2.1 row.2.2.1 row.2.2.2 s.regs (clocked s)) := by
  have ⟨_, _, hst⟩ := h
  exact completesWith_of_busy h (not_idle_not_req_of_waitRow hrow).1 _ (fsmStep_of_waitRow hrow hst _ _)

section
variable {p : Params} {ph q : Phase} {level : Bool} {code : ErrCode} {s : Regs}

/-- A level change ends a wait phase, whatever the timeout (R106, R307). -/
theorem waitPhase_of_changed (h : s.sync2 ≠ level) (s' : Regs) :
    waitPhase p ph level q code s s' = { s' with st := q, tcnt := 0 } := by
  rw [waitPhase, if_pos (bne_iff_ne.mpr h)]
  rfl

/-- A wait phase whose level holds ends with a timeout when the check is true (R303, R304). -/
theorem waitPhase_of_timeout (h : s.sync2 = level) (ht : timeoutCheck p s = true) (s' : Regs) :
    waitPhase p ph level q code s s' = failTimeout code ph s' := by
  rw [waitPhase, if_neg (by simp [h]), if_pos ht]

/-- A wait phase whose level holds counts when the check is false (R106). -/
theorem waitPhase_of_held (h : s.sync2 = level) (ht : timeoutCheck p s = false) (s' : Regs) :
    waitPhase p ph level q code s s' = { s' with tcnt := saturatingSucc s.tcnt } := by
  rw [waitPhase, if_neg (by simp [h]), if_neg (by simp [ht])]

end

/-- A cycle of a wait phase whose level holds, without a timeout. -/
theorem completesWith_of_held {s : State} {row : Phase × Bool × Phase × ErrCode} (hrow : row ∈ waitRows)
    (h : runsPhase s row.1) (hlevel : s.regs.sync2 = row.2.1) (ht : timeoutCheck s.cfg s.regs = false) :
    completesWith s { clocked s with tcnt := saturatingSucc s.regs.tcnt } :=
  waitPhase_of_held hlevel ht (clocked s) ▸ completesWith_waitPhase hrow h

/-- A cycle of a wait phase whose level has changed. -/
theorem completesWith_of_changed {s : State} {row : Phase × Bool × Phase × ErrCode} (hrow : row ∈ waitRows)
    (h : runsPhase s row.1) (hlevel : s.regs.sync2 ≠ row.2.1) :
    completesWith s { clocked s with st := row.2.2.1, tcnt := 0 } :=
  waitPhase_of_changed hlevel (clocked s) ▸ completesWith_waitPhase hrow h

/-- Settles O23: the three branches of WaitPhase, with TimeoutCheck as an arithmetic condition. -/
theorem waitPhaseCycle : Obligations.WaitPhaseCycle := by
  intro s row hrow h
  refine ⟨completesWith_of_changed hrow h, fun hlevel hlimit hle => ?_, fun hlevel hnot => ?_⟩
  · have ht : timeoutCheck s.cfg s.regs = true := (timeoutCheck_iff _ _).mpr ⟨hlimit, hle⟩
    have hstep := completesWith_waitPhase hrow h
    rw [waitPhase_of_timeout hlevel ht] at hstep
    exact hstep
  · have ht : timeoutCheck s.cfg s.regs = false := Bool.eq_false_iff.mpr fun ht => hnot ((timeoutCheck_iff _ _).mp ht)
    exact ⟨_, saturatingSucc_toNat _, completesWith_of_held hrow h hlevel ht⟩

/-! ## BIT_SAMPLE -/

/-- The sampled bit is bit 0, and the old frame stands above it (R140). -/
theorem shiftIn_toNat (f : Frame) (b : Bool) :
    (shiftIn f b).toNat = (2 * f.toNat + if b then 1 else 0) % 2 ^ 40 := by
  have hdisjoint : (f <<< 1) &&& (BitVec.ofBool b).setWidth 40 = 0#40 := by
    apply BitVec.eq_of_getLsbD_eq
    intro i _
    cases i <;> simp
  rw [shiftIn, ← BitVec.add_eq_or_of_and_eq_zero _ _ hdisjoint, BitVec.toNat_add, BitVec.toNat_shiftLeft,
    Nat.shiftLeft_eq]
  cases b <;> simp [Nat.mul_comm]

/-- A cycle of BIT_SAMPLE (R113). -/
theorem completesWith_bitSample {s : State} (h : runsPhase s .bitSample) :
    completesWith s { clocked s with
      frame := shiftIn s.regs.frame s.regs.sync2, bitIdx := s.regs.bitIdx + 1, tcnt := 0,
      st := if s.regs.bitIdx == 39 then .convert else .bitGapH } := by
  refine completesWith_of_busy h nofun _ ?_
  obtain ⟨_, _, hst⟩ := h
  rw [fsmStep, hst]
  rfl

/-- Settles O24: the shifted frame as a number, and a count below 40, which does not wrap. -/
theorem bitSampleCycle : Obligations.BitSampleCycle := by
  intro s h hle
  have hsucc : (s.regs.bitIdx + 1).toNat = s.regs.bitIdx.toNat + 1 :=
    BitVec.toNat_add_of_lt (show s.regs.bitIdx.toNat + 1 < 2 ^ 6 by omega)
  have hlast : (s.regs.bitIdx == 39) = decide (s.regs.bitIdx.toNat = 39) := by
    rw [beq_eq_decide, decide_eq_decide]
    exact BitVec.toNat_inj.symm
  have hstep := completesWith_bitSample h
  simp only [hlast, decide_eq_true_eq] at hstep
  exact ⟨_, _, shiftIn_toNat _ _, hsucc, hstep⟩

/-! ## The order of the phases -/

theorem follows_of_timedRow {p : Params} {row : Phase × Nat × Phase} (hrow : row ∈ timedRows p) :
    row.1.follows row.1 = true ∧ row.1.follows row.2.2 = true ∧ row.2.2 ≠ .idle := by
  simp only [timedRows, List.mem_cons, List.not_mem_nil, or_false] at hrow
  rcases hrow with rfl | rfl | rfl <;> exact ⟨rfl, rfl, nofun⟩

theorem follows_of_waitRow {row : Phase × Bool × Phase × ErrCode} (hrow : row ∈ waitRows) :
    row.1.follows row.1 = true ∧ row.1.follows row.2.2.1 = true ∧ row.1.follows .idle = true
      ∧ row.2.2.1 ≠ .idle ∧ row.2.2.2 ≠ .none := by
  revert row
  decide

/-- Outside IDLE the phases follow R100's order, and an end that is not CONVERT's records the phase and its error
(R304). -/
theorem fsmStep_follows {p : Params} {s s' r : Regs} (h : fsmStep p s s' = .next r) (hs' : s'.st = s.st)
    (hb : s.st ≠ .idle) :
    s.st.follows r.st = true
    ∧ (s.st ≠ .convert → r.st = .idle → r.err ≠ .none ∧ r.errPhase = s.st) := by
  rcases fsmStep_cases h with ⟨hst, _⟩ | ⟨row, hrow, hst, ⟨_, rfl⟩ | ⟨_, rfl⟩⟩
    | ⟨row, hrow, hst, ⟨_, rfl⟩ | ⟨_, _, rfl⟩ | ⟨_, _, rfl⟩⟩ | ⟨hst, rfl⟩ | ⟨hst, _, rfl⟩ | ⟨hst, _, rfl⟩
  · exact absurd hst hb
  · obtain ⟨_, hnext, hq⟩ := follows_of_timedRow hrow
    exact ⟨by rw [hst]; exact hnext, fun _ hidle => absurd hidle hq⟩
  · obtain ⟨hsame, _⟩ := follows_of_timedRow hrow
    exact ⟨by rw [hs', hst]; exact hsame, fun _ hidle => absurd (hs'.symm.trans hidle) hb⟩
  · obtain ⟨_, hnext, _, hq, _⟩ := follows_of_waitRow hrow
    exact ⟨by rw [hst]; exact hnext, fun _ hidle => absurd hidle hq⟩
  · obtain ⟨_, _, hend, _, hcode⟩ := follows_of_waitRow hrow
    exact ⟨by rw [hst]; exact hend, fun _ _ => ⟨hcode, hst.symm⟩⟩
  · obtain ⟨hsame, _⟩ := follows_of_waitRow hrow
    exact ⟨by rw [hs', hst]; exact hsame, fun _ hidle => absurd (hs'.symm.trans hidle) hb⟩
  · rw [hst]
    cases s.bitIdx == 39 <;> exact ⟨rfl, nofun⟩
  · exact ⟨by rw [hst]; rfl, fun hc => absurd hst hc⟩
  · exact ⟨by rw [hst]; rfl, fun hc => absurd hst hc⟩

/-- Settles O28: IDLE is left by the host only, and the other phases by FsmStep only. -/
theorem phasesFollowTheFixedOrder : Obligations.PhasesFollowTheFixedOrder := by
  intro s t h hr
  have hf := fsmStep_of_step h hr
  by_cases hst : s.regs.st = .idle
  · have ht : t.regs = fsmInput s := Host.Outcome.next.inj (hf.symm.trans (fsmStep_of_idle hst _))
    refine ⟨?_, fun _ hne => ?_, fun _ hb => absurd hst hb⟩
    · rcases fsmInput_cases s with ⟨_, v, p, x, _, he⟩ | he <;> rw [ht, he, hst]
      · rfl
      · rw [show (clocked s).st = .idle from hst]
        rfl
    · rcases fsmInput_cases s with ⟨_, v, p, x, hi, _⟩ | he
      · exact ⟨v, p, x, hi⟩
      · exact absurd hst (by rw [ht, he] at hne; exact hne)
  · obtain ⟨hfollows, hend⟩ := fsmStep_follows hf (by rw [fsmInput_of_busy s hst]; rfl) hst
    exact ⟨hfollows, fun hidle => absurd hidle hst, fun hc _ => hend hc⟩

/-! ## Where the line is read -/

/-- The same machine with another level at the second flop, the `dq_s` that the state machine sees (10_state.md R26). -/
def withLine (b : Bool) (s : State) : State := { s with regs := { s.regs with sync2 := b } }

/-- FsmStep writes over a record in which the second flop has moved, so the present level is gone from it. -/
theorem fsmInput_withLine (s : State) (b : Bool) : fsmInput (withLine b s) = fsmInput s := by
  rw [fsmInput, fsmInput, synchronize_afterHost, synchronize_afterHost, show fetch (withLine b s) = fetch s from rfl]
  cases fetch s <;> rfl

/-- A cycle reads `dq_s` through FsmStep only. -/
theorem step_withLine {s : State} {b : Bool} (hok : s.cfg.ok = true)
    (h : (inputNow s).rst = false →
      fsmStep s.cfg (withLine b s).regs (fsmInput s) = fsmStep s.cfg s.regs (fsmInput s)) :
    step (withLine b s) = step s := by
  rw [step_eq s hok, step_eq (withLine b s) hok, fsmInput_withLine, show inputNow (withLine b s) = inputNow s from rfl]
  cases hr : (inputNow s).rst
  · rw [← h hr]
    rfl
  · rfl

/-- IDLE, the timed phases and CONVERT do not read `dq_s` (R118). -/
theorem fsmStep_withLine {s : State} (hst : s.regs.st = .idle ∨ s.regs.st = .req ∨ s.regs.st = .settle
    ∨ s.regs.st = .bitDelay ∨ s.regs.st = .convert) (b : Bool) (s' : Regs) :
    fsmStep s.cfg (withLine b s).regs s' = fsmStep s.cfg s.regs s' := by
  rw [fsmStep, fsmStep, show (withLine b s).regs.st = s.regs.st from rfl]
  rcases hst with hst | hst | hst | hst | hst <;> rw [hst] <;> rfl

/-- Above bit 0, a shifted frame does not depend on the bit shifted in (R140). -/
theorem getLsbD_shiftIn_of_pos (f : Frame) (b c : Bool) {j : Nat} (hj : 0 < j) :
    (shiftIn f b).getLsbD j = (shiftIn f c).getLsbD j := by
  have hbit : ∀ b : Bool, ((BitVec.ofBool b).setWidth 40).getLsbD j = false := fun b => by simp [hj.ne']
  rw [shiftIn, shiftIn, BitVec.getLsbD_or, BitVec.getLsbD_or, hbit, hbit]

/-- Settles O33: a reset cycle and the five phases do not read `dq_s`, and BIT_SAMPLE shifts it in. -/
theorem lineIsReadOnlyInWaitPhasesAndSamples : Obligations.LineIsReadOnlyInWaitPhasesAndSamples := by
  intro s t u b ht hu
  change step (withLine b s) = .next u at hu
  obtain ⟨hok, -⟩ := step_next_cases s t ht
  have hsame (h : (inputNow s).rst = false →
      fsmStep s.cfg (withLine b s).regs (fsmInput s) = fsmStep s.cfg s.regs (fsmInput s)) : u = t := by
    rw [step_withLine hok h, ht] at hu
    exact (Host.Outcome.next.inj hu).symm
  refine ⟨fun hst => hsame fun _ => fsmStep_withLine hst b _, ?_⟩
  by_cases hst : s.regs.st = .bitSample
  · cases hr : (inputNow s).rst
    · cases ht.symm.trans (completesWith_bitSample ⟨hok, hr, hst⟩)
      cases hu.symm.trans (completesWith_bitSample (s := withLine b s) ⟨hok, hr, hst⟩)
      exact ⟨fun _ _ hj => getLsbD_shiftIn_of_pos _ _ _ hj, fun _ => rfl⟩
    · cases hsame fun h => absurd h (by simp [hr])
      exact ⟨fun _ _ _ => rfl, fun _ => rfl⟩
  · exact ⟨fun h => absurd h hst, fun h => absurd h hst⟩

end Sys2Proof.Machine
end
section
/-! Runs of the wait phases and of the bit loop: the hang, the classifier, and the least length of an acquisition
(40_sequencer.md R115, R119, R120). -/

namespace Sys2Proof.Machine

/-- The inputs of the cycle that a run has reached. -/
theorem inputNow_of_run {k : Nat} {s t : State} (h : run k s = .next t) : inputNow t = inputAt s k :=
  (run_frame k s t h).2 0

/-! ## A held level with the timeout off -/

/-- A safe machine in a wait phase, with the timeout off and both flops at the level waited on (R119). -/
structure Hanging (row : Phase × Bool × Phase × ErrCode) (s : State) : Prop where
  safe : Safe s
  phase : s.regs.st = row.1
  limitOff : s.regs.toLimit = 0
  flop1 : s.regs.sync1 = row.2.1
  flop2 : s.regs.sync2 = row.2.1

/-- A cycle that brings the same level, and neither a reset nor a limit, leaves the machine hanging. -/
theorem Hanging.step_next {row : Phase × Bool × Phase × ErrCode} {s : State} (h : Hanging row s)
    (hrow : row ∈ waitRows) (hd : (inputNow s).dqIn = row.2.1) (hr : (inputNow s).rst = false)
    (hl : limitAfter (fetch s) 0 = 0) : ∃ t, step s = .next t ∧ Hanging row t := by
  have ht : timeoutCheck s.cfg s.regs = false :=
    Bool.eq_false_iff.mpr fun ht => ((timeoutCheck_iff _ _).mp ht).1 h.limitOff
  have hstep := completesWith_of_held hrow ⟨h.safe.1, hr, h.phase⟩ h.flop2 ht
  refine ⟨_, hstep, everyStepKeepsTheMachineSafe _ _ h.safe hstep, h.phase, ?_, hd, h.flop1⟩
  exact (congrArg (limitAfter (fetch s)) h.limitOff).trans hl

theorem Hanging.run_next {row : Phase × Bool × Phase × ErrCode} {s : State} (h : Hanging row s)
    (hrow : row ∈ waitRows) (n : Nat)
    (hin : ∀ j, j < n → (inputAt s j).dqIn = row.2.1 ∧ (inputAt s j).rst = false
      ∧ limitAfter (decode (inputAt s j).bus) 0 = 0) :
    ∃ t, run n s = .next t ∧ Hanging row t := by
  induction n with
  | zero => exact ⟨s, rfl, h⟩
  | succ n ih =>
    obtain ⟨t, ht, hhang⟩ := ih fun j hj => hin j (Nat.lt_succ_of_lt hj)
    obtain ⟨hd, hr, hl⟩ := hin n n.lt_succ_self
    rw [← inputNow_of_run ht] at hd hr hl
    obtain ⟨u, hu, hhang'⟩ := hhang.step_next hrow hd hr hl
    exact ⟨u, (run_succ n s t ht).trans hu, hhang'⟩

/-- Settles O47: the machine hangs for the whole run, and a safe machine that is busy shows the sentinel Reading. -/
theorem heldLevelHangsWithTheTimeoutOff : Obligations.HeldLevelHangsWithTheTimeoutOff := by
  intro n s row hrow hsafe hst hlimit h2 h1 hin
  obtain ⟨t, ht, hhang⟩ := Hanging.run_next ⟨hsafe, hst, hlimit, h1, h2⟩ hrow n hin
  have hbusy : t.regs.st ≠ .idle := hhang.phase ▸ (not_idle_not_req_of_waitRow hrow).1
  obtain ⟨hread, hdone, _⟩ := hhang.safe.2.whileBusy hbusy
  exact ⟨t, ht, hhang.phase, bne_iff_ne.mpr hbusy, hread, hdone⟩

/-! ## What a run leaves alone, and the line it has seen -/

/-- BIT_SAMPLE alone writes the frame and the count of bits in FsmStep (R113). -/
theorem fsmStep_keeps_frame {p : Params} {s s' r : Regs} (h : fsmStep p s s' = .next r) (hst : s.st ≠ .bitSample) :
    r.frame = s'.frame ∧ r.bitIdx = s'.bitIdx := by
  rcases fsmStep_cases h with ⟨_, rfl⟩ | ⟨row, _, _, ⟨_, rfl⟩ | ⟨_, rfl⟩⟩
    | ⟨row, _, _, ⟨_, rfl⟩ | ⟨_, _, rfl⟩ | ⟨_, _, rfl⟩⟩ | ⟨hsample, _⟩ | ⟨_, _, rfl⟩ | ⟨_, _, rfl⟩
  any_goals exact ⟨rfl, rfl⟩
  exact absurd hsample hst

/-- A cycle of BIT_DELAY leaves the sampled bits alone. -/
theorem step_bitDelay_keeps_frame {s t : State} (h : step s = .next t) (hr : (inputNow s).rst = false)
    (hst : s.regs.st = .bitDelay) : t.regs.frame = s.regs.frame ∧ t.regs.bitIdx = s.regs.bitIdx := by
  have hf := fsmStep_of_step h hr
  rw [fsmInput_of_busy s (by rw [hst]; nofun)] at hf
  exact fsmStep_keeps_frame (s' := clocked s) hf (by rw [hst]; nofun)

/-- The last cycle of a run. -/
theorem run_succ_next {k : Nat} {s t : State} (h : run (k + 1) s = .next t) :
    ∃ u, run k s = .next u ∧ step u = .next t := by
  induction k generalizing s with
  | zero =>
    refine ⟨s, rfl, ?_⟩
    rw [← run_succ 0 s s rfl]
    exact h
  | succ k ih =>
    cases hs : step s with
    | next v =>
      rw [run_succ_of_step _ s v hs] at h ⊢
      exact ih h
    | fault f => rw [run, hs] at h; cases h
    | refused x => rw [run, hs] at h; cases h

/-- The level that the state machine sees is the line's of two cycles before (10_state.md R26). -/
theorem run_sync2 {n : Nat} {s t : State} (h : run (n + 2) s = .next t) (hr : (inputAt s n).rst = false)
    (hr' : (inputAt s (n + 1)).rst = false) : t.regs.sync2 = (inputAt s n).dqIn := by
  obtain ⟨v, hv, hvt⟩ := run_succ_next h
  obtain ⟨u, hu, huv⟩ := run_succ_next hv
  rw [← inputNow_of_run hu] at hr ⊢
  rw [← inputNow_of_run hv] at hr'
  obtain ⟨_, _, htwo, _⟩ := synchronizerDelaysTheLineTwoCycles u v huv hr
  exact htwo t hvt hr'

/-! ## From the rise of the line to the sampled bit (R115) -/

theorem bitStartL_mem_waitRows : (.bitStartL, false, .bitDelay, .timingError) ∈ waitRows := by simp [waitRows]

theorem bitDelay_mem_timedRows (p : Params) : (.bitDelay, p.durSample, .bitSample) ∈ timedRows p := by simp [timedRows]

/-- While BIT_DELAY lasts, and in the BIT_SAMPLE that follows, the sampled bits are those that it was entered with. -/
theorem run_bitDelay_keeps_frame {s : State} (hok : s.cfg.ok = true) (hst : s.regs.st = .bitDelay)
    (hzero : s.regs.tcnt = 0) {k : Nat} (hk : k ≤ s.cfg.durSample) (hr : ∀ j, j < k → (inputAt s j).rst = false)
    {t : State} (ht : run k s = .next t) : t.regs.frame = s.regs.frame ∧ t.regs.bitIdx = s.regs.bitIdx := by
  induction k generalizing t with
  | zero => cases ht; exact ⟨rfl, rfl⟩
  | succ k ih =>
    obtain ⟨u, hu, hust, _⟩ :=
      run_timedRow_counts (bitDelay_mem_timedRows _) hok hst hzero k hk fun j hj => hr j (by omega)
    obtain ⟨hframe, hbits⟩ := ih (by omega) (fun j hj => hr j (by omega)) hu
    have hru : (inputNow u).rst = false := by rw [inputNow_of_run hu]; exact hr k (by omega)
    obtain ⟨hframe', hbits'⟩ := step_bitDelay_keeps_frame ((run_succ k s u hu).symm.trans ht) hru hust
    exact ⟨hframe'.trans hframe, hbits'.trans hbits⟩

section
variable {s : State} (hok : s.cfg.ok = true) (hst : s.regs.st = .bitStartL) (hrise : s.regs.sync2 = true)
include hok hst hrise

/-- BIT_START_L that sees the line high enters BIT_DELAY. -/
theorem step_of_rise (hr : (inputNow s).rst = false) :
    ∃ t, step s = .next t ∧ t.cfg = s.cfg ∧ t.regs.st = .bitDelay ∧ t.regs.tcnt = 0 ∧ t.regs.frame = s.regs.frame
      ∧ t.regs.bitIdx = s.regs.bitIdx ∧ ∀ j, inputAt t j = inputAt s (j + 1) := by
  have hstep := completesWith_of_changed bitStartL_mem_waitRows ⟨hok, hr, hst⟩ (by rw [hrise]; nofun)
  exact ⟨_, hstep, rfl, rfl, rfl, rfl, rfl, inputAt_succ_of_tail s _ rfl rfl⟩

/-- BIT_DELAY holds for the DUR_SAMPLE cycles after the rise. -/
theorem run_bitDelay_of_rise {k : Nat} (h1 : 1 ≤ k) (hk : k ≤ s.cfg.durSample)
    (hr : ∀ j, j < k → (inputAt s j).rst = false) : ∃ t, run k s = .next t ∧ t.regs.st = .bitDelay := by
  obtain ⟨k, rfl⟩ := Nat.exists_eq_add_of_le' h1
  obtain ⟨t, ht, hcfg, htst, hzero, _, _, hin⟩ := step_of_rise hok hst hrise (hr 0 (by omega))
  have hrow : (.bitDelay, s.cfg.durSample, .bitSample) ∈ timedRows t.cfg := hcfg ▸ bitDelay_mem_timedRows _
  obtain ⟨u, hu, hust, _⟩ := run_timedRow_counts hrow (hcfg ▸ hok) htst hzero k hk fun j hj => by
    rw [hin]; exact hr (j + 1) (by omega)
  exact ⟨u, (run_succ_of_step k s t ht).trans hu, hust⟩

/-- BIT_SAMPLE is the cycle after them, and it sees the level of two cycles before. -/
theorem run_bitSample_of_rise (hr : ∀ j, j ≤ s.cfg.durSample → (inputAt s j).rst = false) :
    ∃ t, run (s.cfg.durSample + 1) s = .next t ∧ t.regs.st = .bitSample
      ∧ t.regs.sync2 = (inputAt s (s.cfg.durSample - 1)).dqIn
      ∧ t.regs.frame = s.regs.frame ∧ t.regs.bitIdx = s.regs.bitIdx := by
  obtain ⟨_, _, _, _, _, _, hone, _⟩ := params_bounds hok
  obtain ⟨t, ht, hcfg, htst, hzero, hframe, hbits, hin⟩ := step_of_rise hok hst hrise (hr 0 (by omega))
  have hrow : (.bitDelay, s.cfg.durSample, .bitSample) ∈ timedRows t.cfg := hcfg ▸ bitDelay_mem_timedRows _
  have hr' : ∀ j, j < s.cfg.durSample → (inputAt t j).rst = false := fun j hj => by
    rw [hin]; exact hr (j + 1) hj
  obtain ⟨u, hu, hust, _⟩ := run_timedRow_leaves hrow (hcfg ▸ hok) htst hzero hr'
  obtain ⟨hframe', hbits'⟩ := run_bitDelay_keeps_frame (hcfg ▸ hok) htst hzero (by rw [hcfg]) hr' hu
  have hrun : run (s.cfg.durSample + 1) s = .next u := (run_succ_of_step _ s t ht).trans hu
  refine ⟨u, hrun, hust, ?_, hframe'.trans hframe, hbits'.trans hbits⟩
  obtain ⟨d, hd⟩ := Nat.exists_eq_add_of_le' hone
  rw [hd] at hrun hr ⊢
  exact run_sync2 hrun (hr d (by omega)) (hr (d + 1) (by omega))

/-- The bit shifted in is the line's level two cycles before BIT_SAMPLE. -/
theorem run_sampled_of_rise (hr : ∀ j, j ≤ s.cfg.durSample + 1 → (inputAt s j).rst = false) :
    ∃ t, run (s.cfg.durSample + 2) s = .next t
      ∧ t.regs.frame = shiftIn s.regs.frame (inputAt s (s.cfg.durSample - 1)).dqIn
      ∧ t.regs.bitIdx = s.regs.bitIdx + 1 := by
  obtain ⟨t, ht, htst, hlevel, hframe, hbits⟩ := run_bitSample_of_rise hok hst hrise fun j hj => hr j (by omega)
  obtain ⟨hcfg, _⟩ := run_frame _ s t ht
  have hrt : (inputNow t).rst = false := by rw [inputNow_of_run ht]; exact hr _ le_rfl
  have hstep := completesWith_bitSample ⟨hcfg ▸ hok, hrt, htst⟩
  rw [hlevel, hframe, hbits] at hstep
  exact ⟨_, (run_succ _ s t ht).trans hstep, rfl, rfl⟩

end

/-- BIT_START_L that sees the line low, the first flop already high, waits one cycle more and then sees the rise. -/
theorem step_of_rise_at_flop1 {s : State} (hok : s.cfg.ok = true) (hst : s.regs.st = .bitStartL)
    (h1 : s.regs.sync1 = true) (h2 : s.regs.sync2 = false) (ht : timeoutCheck s.cfg s.regs = false)
    (hr : (inputNow s).rst = false) :
    ∃ t, step s = .next t ∧ t.cfg = s.cfg ∧ t.regs.st = .bitStartL ∧ t.regs.sync2 = true
      ∧ t.regs.frame = s.regs.frame ∧ t.regs.bitIdx = s.regs.bitIdx ∧ ∀ j, inputAt t j = inputAt s (j + 1) := by
  have hstep := completesWith_of_held bitStartL_mem_waitRows ⟨hok, hr, hst⟩ h2 ht
  exact ⟨_, hstep, rfl, hst, h1, rfl, rfl, inputAt_succ_of_tail s _ rfl rfl⟩

/-- Settles O49: the sample sees the line DUR_SAMPLE - 1 cycles after the cycle that saw the rise, and that is
DUR_SAMPLE + 1 cycles after the line rose. -/
theorem classifierThreshold : Obligations.ClassifierThreshold := by
  refine ⟨fun s hok hst hrise hr => ⟨fun k h1 hk => ?_, ?_, run_sampled_of_rise hok hst hrise hr⟩, ?_⟩
  · exact run_bitDelay_of_rise hok hst hrise h1 hk fun j hj => hr j (by omega)
  · obtain ⟨t, ht, htst, hlevel, _⟩ := run_bitSample_of_rise hok hst hrise fun j hj => hr j (by omega)
    exact ⟨t, ht, htst, hlevel⟩
  · intro s w hok hst _ h1 h2 htimeout hline hr
    obtain ⟨_, _, _, _, _, _, hone, _⟩ := params_bounds hok
    obtain ⟨u, hu, hcfg, hust, hrise, hframe, hbits, hin⟩ :=
      step_of_rise_at_flop1 hok hst h1 h2 htimeout (hr 0 (by omega))
    obtain ⟨t, ht, htframe, htbits⟩ := run_sampled_of_rise (hcfg ▸ hok) hust hrise fun j hj => by
      rw [hin]; exact hr (j + 1) (Nat.succ_le_succ (hcfg ▸ hj))
    have hbit : (inputAt u (s.cfg.durSample - 1)).dqIn = decide (s.cfg.durSample + 2 ≤ w) := by
      rw [hin, Nat.sub_add_cancel hone]
      exact hline _ le_rfl
    rw [hcfg, hframe, hbit] at htframe
    rw [hcfg] at ht
    exact ⟨t, (run_succ_of_step _ s u hu).trans ht, htframe, htbits.trans (congrArg (· + 1) hbits)⟩

/-! ## The least length of an acquisition (R120) -/

/-- A lower bound on the cycles from a phase, with a count of `n` cycles and `b` bits sampled, to CONVERT: the rest of
the timed phases in full, one cycle for each wait phase and each BIT_SAMPLE, and the whole of an acquisition from IDLE. -/
def cyclesToConvert (p : Params) (ph : Phase) (n b : Nat) : Nat :=
  match ph with
  | .idle => minCycles p
  | .req => (p.durReq - n) + p.durSettle + 3 + (40 - b) * (p.durSample + 3)
  | .settle => (p.durSettle - n) + 3 + (40 - b) * (p.durSample + 3)
  | .respWaitH => 3 + (40 - b) * (p.durSample + 3)
  | .respL => 2 + (40 - b) * (p.durSample + 3)
  | .respH => 1 + (40 - b) * (p.durSample + 3)
  | .bitGapH => (40 - b) * (p.durSample + 3)
  | .bitStartL => (40 - b) * (p.durSample + 3) - 1
  | .bitDelay => (40 - b) * (p.durSample + 3) - 2 - n
  | .bitSample => (40 - b) * (p.durSample + 3) - 2 - p.durSample
  | .convert | .reserved _ => 0

/-- No phase is farther from CONVERT than IDLE. -/
theorem cyclesToConvert_le_minCycles (p : Params) (ph : Phase) (n b : Nat) :
    cyclesToConvert p ph n b ≤ minCycles p := by
  have hbits : (40 - b) * (p.durSample + 3) ≤ 40 * (p.durSample + 3) := Nat.mul_le_mul_right _ (Nat.sub_le 40 b)
  cases ph <;> simp only [cyclesToConvert, minCycles] <;> omega

/-- REQ, entered by a START, is one cycle nearer than IDLE. -/
theorem cyclesToConvert_start (p : Params) : minCycles p = cyclesToConvert p .req 0 0 + 1 := by
  simp only [cyclesToConvert, minCycles]
  omega

theorem cyclesToConvert_timedRow {p : Params} {row : Phase × Nat × Phase} (hrow : row ∈ timedRows p) (n b : Nat) :
    (row.2.1 ≤ n + 1 → cyclesToConvert p row.1 n b ≤ cyclesToConvert p row.2.2 0 b + 1)
    ∧ ∀ m, m ≤ n + 1 → cyclesToConvert p row.1 n b ≤ cyclesToConvert p row.1 m b + 1 := by
  simp only [timedRows, List.mem_cons, List.not_mem_nil, or_false] at hrow
  rcases hrow with rfl | rfl | rfl
  all_goals
    simp only [cyclesToConvert]
    exact ⟨fun h => by omega, fun m hm => by omega⟩

theorem cyclesToConvert_waitRow (p : Params) {row : Phase × Bool × Phase × ErrCode} (hrow : row ∈ waitRows)
    (n b : Nat) :
    cyclesToConvert p row.1 n b ≤ cyclesToConvert p row.2.2.1 0 b + 1
    ∧ ∀ m, cyclesToConvert p row.1 n b = cyclesToConvert p row.1 m b := by
  simp only [waitRows, List.mem_cons, List.not_mem_nil, or_false] at hrow
  rcases hrow with rfl | rfl | rfl | rfl | rfl
  all_goals
    refine ⟨?_, fun _ => rfl⟩
    simp only [cyclesToConvert]
    omega

theorem cyclesToConvert_bitSample (p : Params) (n : Nat) (b : BitVec 6) :
    cyclesToConvert p .bitSample n b.toNat
      ≤ cyclesToConvert p (if b == 39 then .convert else .bitGapH) 0 (b + 1).toNat + 1 := by
  rcases Nat.lt_trichotomy b.toNat 39 with hlt | heq | hgt
  · have hne : (b == 39) = false := beq_false_of_ne fun h => by rw [h] at hlt; exact absurd hlt (by decide)
    have hsucc : (b + 1).toNat = b.toNat + 1 := BitVec.toNat_add_of_lt (show b.toNat + 1 < 2 ^ 6 by omega)
    have hbits : (40 - b.toNat) * (p.durSample + 3) = (40 - (b.toNat + 1)) * (p.durSample + 3) + (p.durSample + 3) := by
      rw [← Nat.succ_mul]
      congr 1
      omega
    rw [hne, hsucc]
    simp only [cyclesToConvert, Bool.false_eq_true, if_false]
    omega
  · have hb : b = 39 := BitVec.eq_of_toNat_eq heq
    subst hb
    simp [cyclesToConvert]
  · have hbits : 40 - b.toNat = 0 := by omega
    simp [cyclesToConvert, hbits]

/-- The bound of a record. -/
def cyclesFrom (p : Params) (r : Regs) : Nat := cyclesToConvert p r.st r.tcnt.toNat r.bitIdx.toNat

/-- FsmStep brings the record nearer to CONVERT by at most one cycle; an ending leads to IDLE, which is the farthest. -/
theorem cyclesFrom_fsmStep {p : Params} {s s' r : Regs} (h : fsmStep p s s' = .next r) (hidle : s.st ≠ .idle)
    (hst' : s'.st = s.st) (hbits' : s'.bitIdx = s.bitIdx) : cyclesFrom p s ≤ cyclesFrom p r + 1 := by
  have hfar : cyclesFrom p s ≤ minCycles p + 1 := Nat.le_succ_of_le (cyclesToConvert_le_minCycles p _ _ _)
  rcases fsmStep_cases h with ⟨hst, _⟩ | ⟨row, hrow, hst, ⟨hle, rfl⟩ | ⟨_, rfl⟩⟩
    | ⟨row, hrow, hst, ⟨_, rfl⟩ | ⟨_, _, rfl⟩ | ⟨_, _, rfl⟩⟩ | ⟨hst, rfl⟩ | ⟨_, _, rfl⟩ | ⟨_, _, rfl⟩
  · exact absurd hst hidle
  · simp only [cyclesFrom, hst, hbits']
    exact (cyclesToConvert_timedRow hrow _ _).1 hle
  · simp only [cyclesFrom, hst', hst, hbits']
    exact (cyclesToConvert_timedRow hrow _ _).2 _ ((BitVec.toNat_ofNat _ _).trans_le (Nat.mod_le _ _))
  · simp only [cyclesFrom, hst, hbits']
    exact (cyclesToConvert_waitRow p hrow _ _).1
  · exact hfar
  · simp only [cyclesFrom, hst', hst, hbits']
    exact Nat.le_succ_of_le ((cyclesToConvert_waitRow p hrow _ _).2 _).le
  · simp only [cyclesFrom, hst]
    exact cyclesToConvert_bitSample p _ _
  · exact hfar
  · exact hfar

/-- A cycle, with a reset or a START or neither, brings the machine nearer to CONVERT by at most one cycle. -/
theorem cyclesFrom_step {s t : State} (h : step s = .next t) :
    cyclesFrom s.cfg s.regs ≤ cyclesFrom s.cfg t.regs + 1 := by
  have hfar : cyclesFrom s.cfg s.regs ≤ minCycles s.cfg := cyclesToConvert_le_minCycles _ _ _ _
  obtain ⟨_, _, _, _, _, ⟨_, hreset⟩ | ⟨_, hf⟩⟩ := step_next_cases s t h
  · rw [hreset]
    exact Nat.le_succ_of_le hfar
  · by_cases hidle : s.regs.st = .idle
    · have hnext : fsmInput s = t.regs := Host.Outcome.next.inj ((fsmStep_of_idle hidle _).symm.trans hf)
      rw [← hnext]
      rcases fsmInput_cases s with ⟨_, v, p, x, _, he⟩ | he <;> rw [he]
      · exact hfar.trans_eq (cyclesToConvert_start s.cfg)
      · exact Nat.le_succ _
    · rw [fsmInput_of_busy s hidle] at hf
      exact cyclesFrom_fsmStep hf hidle rfl rfl

/-- A run of `k` cycles brings the machine nearer to CONVERT by at most `k` cycles. -/
theorem cyclesFrom_run {k : Nat} {s t : State} (h : run k s = .next t) :
    cyclesFrom s.cfg s.regs ≤ cyclesFrom s.cfg t.regs + k := by
  induction k generalizing t with
  | zero => cases h; exact le_rfl
  | succ k ih =>
    obtain ⟨u, hu, hstep⟩ := run_succ_next h
    have hcfg : u.cfg = s.cfg := (run_frame k s u hu).1
    have hone := cyclesFrom_step hstep
    rw [hcfg] at hone
    have hrest := ih hu
    omega

/-- Settles O50: the first REQ cycle is `minCycles - 1` cycles from CONVERT, and every cycle makes up one of them at
most. -/
theorem convertIsNeverReachedEarly : Obligations.ConvertIsNeverReachedEarly := by
  intro k s t _ hst hzero hbits h hconvert
  have hrun := cyclesFrom_run h
  rw [cyclesFrom, cyclesFrom, hst, hzero, hbits, hconvert] at hrun
  calc minCycles s.cfg
      = cyclesToConvert s.cfg .req 0 0 + 1 := cyclesToConvert_start _
    _ ≤ 0 + k + 1 := Nat.succ_le_succ hrun
    _ = k + 1 := by rw [Nat.zero_add]

end Sys2Proof.Machine
end
section
/-! The checksum and CONVERT: the reduction as arithmetic, where the sampled bits sit, the converter's formulas over the
bytes as numbers, and who writes the Reading (41_checksum.md R140 to R149). -/

namespace Sys2Proof.Machine

/-! ## The validator -/

/-- The accumulator's bound (R142). -/
theorem checksumSum_le (b0 b1 b2 b3 : Byte) : checksumSum b0 b1 b2 b3 ≤ 1020 := by
  have h0 : b0.toNat < 256 := b0.isLt
  have h1 : b1.toNat < 256 := b1.isLt
  have h2 : b2.toNat < 256 := b2.isLt
  have h3 : b3.toNat < 256 := b3.isLt
  unfold checksumSum
  omega

/-- Below 1024, one subtraction of 512 and one of 256 leave the remainder modulo 256 (R143). -/
theorem checksumReduce_eq_mod {sum : Nat} (h : sum ≤ 1020) : checksumReduce sum = sum % 256 := by
  unfold checksumReduce
  dsimp only
  split_ifs <;> omega

/-- The verdict as arithmetic (R144, R145). -/
theorem checksumOk_iff (b0 b1 b2 b3 b4 : Byte) :
    checksumOk b0 b1 b2 b3 b4 = true ↔ (b0.toNat + b1.toNat + b2.toNat + b3.toNat) % 256 = b4.toNat := by
  rw [checksumOk, checksumReduce_eq_mod (checksumSum_le b0 b1 b2 b3), beq_iff_eq, checksumSum]

/-- Settles O36: four bytes sum to at most 1020, where the reduction is the remainder modulo 256. -/
theorem checksumReductionIsModulo256 : Obligations.ChecksumReductionIsModulo256 :=
  ⟨checksumSum_le, fun _ hle => ⟨checksumReduce_eq_mod hle, rfl⟩, checksumOk_iff⟩

/-! ## The packing of the sampled bits -/

/-- The latest bit sits at bit 0, and the older ones have moved up by one (R140). -/
theorem getLsbD_shiftIn_zero (f : Frame) (b : Bool) : (shiftIn f b).getLsbD 0 = b := by
  simp [shiftIn]

theorem getLsbD_shiftIn_succ (f : Frame) (b : Bool) {j : Nat} (hj : j + 1 < 40) :
    (shiftIn f b).getLsbD (j + 1) = f.getLsbD j := by
  simp [shiftIn, hj, BitVec.getLsbD_eq_getElem (Nat.lt_of_succ_lt hj)]

/-- With the latest bit at the head of the list, bit j of the frame is the list's entry j, whatever frame the bits were
shifted into. -/
theorem getLsbD_foldr_shiftIn (f0 : Frame) (latest : List Bool) (j : Nat) (hj : j < latest.length) (hj40 : j < 40) :
    (latest.foldr (fun b f => shiftIn f b) f0).getLsbD j = latest[j] := by
  induction latest generalizing j with
  | nil => nomatch hj
  | cons b older ih =>
    cases j with
    | zero => exact getLsbD_shiftIn_zero _ b
    | succ j =>
      exact (getLsbD_shiftIn_succ _ b hj40).trans (ih j (Nat.lt_of_succ_lt_succ hj) (Nat.lt_of_succ_lt hj40))

/-- The frame view of R141. -/
theorem getLsbD_foldl_shiftIn (f0 : Frame) (bits : List Bool) (i : Nat) (h : i < bits.length)
    (hlen : bits.length = 40) : (bits.foldl shiftIn f0).getLsbD (39 - i) = bits[i] := by
  rw [List.foldl_eq_foldr_reverse, getLsbD_foldr_shiftIn f0 bits.reverse (39 - i) (by simp; omega) (by omega),
    List.getElem_reverse]
  congr 1
  omega

/-- Byte k of the frame is its bits 8·(4 - k) and up (R140). -/
theorem getLsbD_byte (f : Frame) {k m : Nat} (hk : k < 5) (hm : m < 8) :
    ([byte0 f, byte1 f, byte2 f, byte3 f, byte4 f].getD k 0).getLsbD m = f.getLsbD (8 * (4 - k) + m) := by
  have hextract (start : Nat) : (f.extractLsb' start 8).getLsbD m = f.getLsbD (start + m) := by simp [hm]
  match k with
  | 0 => exact hextract 32
  | 1 => exact hextract 24
  | 2 => exact hextract 16
  | 3 => exact hextract 8
  | 4 => exact hextract 0

/-- Settles O37: bit i is followed by 39 - i more, each of which moves it up by one, and byte `i / 8` starts at
`frame[8 * (4 - i / 8)]`. -/
theorem sampledBitsArePackedMsbFirst : Obligations.SampledBitsArePackedMsbFirst := by
  intro f0 bits i h hlen
  have hframe := getLsbD_foldl_shiftIn f0 bits i h hlen
  refine ⟨hframe, ?_⟩
  have hpos : 8 * (4 - i / 8) + (7 - i % 8) = 39 - i := by omega
  rw [getLsbD_byte _ (by omega) (by omega), hpos]
  exact hframe

/-! ## The bytes and the converter as arithmetic -/

/-- Eight bits of a frame as a number: every byte of R140 is one. -/
theorem toNat_extractByte (f : Frame) (start : Nat) :
    (f.extractLsb' start 8).toNat = f.toNat / 2 ^ start % 256 := by
  rw [BitVec.extractLsb'_toNat, Nat.shiftRight_eq_div_pow]

theorem byte0_toNat (f : Frame) : (byte0 f).toNat = f.toNat / 2 ^ 32 % 256 := toNat_extractByte f 32
theorem byte1_toNat (f : Frame) : (byte1 f).toNat = f.toNat / 2 ^ 24 % 256 := toNat_extractByte f 24
theorem byte2_toNat (f : Frame) : (byte2 f).toNat = f.toNat / 2 ^ 16 % 256 := toNat_extractByte f 16
theorem byte3_toNat (f : Frame) : (byte3 f).toNat = f.toNat / 2 ^ 8 % 256 := toNat_extractByte f 8
theorem byte4_toNat (f : Frame) : (byte4 f).toNat = f.toNat % 256 :=
  (toNat_extractByte f 0).trans (by rw [pow_zero, Nat.div_one])

/-- The sign of a DHT22 temperature is bit 7 of byte 2 (42_conversion.md R164). -/
theorem getLsbD_seven (b : Byte) : b.getLsbD 7 = decide (128 ≤ b.toNat) :=
  (BitVec.msb_eq_getLsbD_last b).symm.trans (BitVec.msb_eq_decide b)

theorem magnitude22_eq (b2 b3 : Byte) : magnitude22 b2 b3 = 256 * (b2.toNat % 128 : Nat) + b3.toNat := by
  rw [magnitude22, BitVec.extractLsb'_toNat, Nat.shiftRight_zero]

theorem temp22_of_lt {b2 : Byte} (h : b2.toNat < 128) (b3 : Byte) :
    temp22 b2 b3 = 10 * (256 * b2.toNat + b3.toNat) := by
  rw [temp22, getLsbD_seven, if_neg (by simp [h]), magnitude22_eq, Nat.mod_eq_of_lt h]

theorem temp22_of_le {b2 : Byte} (h : 128 ≤ b2.toNat) (b3 : Byte) :
    temp22 b2 b3 = -(10 * (256 * (b2.toNat - 128 : Nat) + b3.toNat)) := by
  have hmod : b2.toNat % 128 = b2.toNat - 128 := by omega
  rw [temp22, getLsbD_seven, if_pos (by simp [h]), magnitude22_eq, hmod]

/-! ## The CONVERT cycle -/

/-- A cycle of CONVERT (R146). -/
theorem completesWith_convert {s : State} (h : runsPhase s .convert) :
    completesWith s (phaseConvert s.cfg s.regs (clocked s)) := by
  refine completesWith_of_busy h nofun _ ?_
  obtain ⟨_, _, hst⟩ := h
  rw [fsmStep, hst]

/-- A cycle of CONVERT whose checksum passes commits the converted values (R146). -/
theorem completesWith_convert_passed {s : State} (h : runsPhase s .convert) (hf : frameOk s.regs.frame = true) :
    completesWith s { clocked s with
      temp := signedWord (convertFrame s.regs.varQ s.regs.frame).1,
      hum := signedWord (convertFrame s.regs.varQ s.regs.frame).2,
      success := true, done := true, st := .idle, tcnt := 0 } := by
  have hstep := completesWith_convert h
  rwa [phaseConvert, if_pos hf] at hstep

/-- A cycle of CONVERT whose checksum fails leaves the two values as they are (R146). -/
theorem completesWith_convert_failed {s : State} (h : runsPhase s .convert) (hf : frameOk s.regs.frame = false) :
    completesWith s { clocked s with success := false, done := true, st := .idle, tcnt := 0 } := by
  have hstep := completesWith_convert h
  rwa [phaseConvert, if_neg (Bool.eq_false_iff.mp hf)] at hstep

/-- Settles O25: the verdict and the formulas of the two variants, with the bytes as numbers. -/
theorem convertCycle : Obligations.ConvertCycle := by
  rintro s _ _ _ _ _ h rfl rfl rfl rfl rfl
  simp only [← byte0_toNat, ← byte1_toNat, ← byte2_toNat, ← byte3_toNat, ← byte4_toNat]
  refine ⟨fun hne => completesWith_convert_failed h ?_, fun heq => ⟨_, _, completesWith_convert_passed h ?_, ?_, ?_⟩⟩
  · exact Bool.eq_false_iff.mpr fun hf => hne ((checksumOk_iff _ _ _ _ _).mp hf)
  · exact (checksumOk_iff _ _ _ _ _).mpr heq
  · intro hv
    rw [hv]
    exact ⟨rfl, rfl⟩
  · intro hv
    rw [hv]
    exact ⟨rfl, fun hlt => temp22_of_lt hlt _, fun hle => temp22_of_le hle _⟩

/-! ## Who writes the Reading -/

/-- CONVERT alone writes the Reading in FsmStep. -/
theorem fsmStep_keeps_reading {p : Params} {s s' r : Regs} (h : fsmStep p s s' = .next r) (hst : s.st ≠ .convert) :
    r.temp = s'.temp ∧ r.hum = s'.hum ∧ r.success = s'.success := by
  rcases fsmStep_cases h with ⟨_, rfl⟩ | ⟨row, _, _, ⟨_, rfl⟩ | ⟨_, rfl⟩⟩
    | ⟨row, _, _, ⟨_, rfl⟩ | ⟨_, _, rfl⟩ | ⟨_, _, rfl⟩⟩ | ⟨_, rfl⟩ | ⟨hconvert, _⟩ | ⟨hconvert, _⟩
  case inr.inr.inr.inr.inl | inr.inr.inr.inr.inr => exact absurd hconvert hst
  all_goals exact ⟨rfl, rfl, rfl⟩

/-- Settles O30: outside CONVERT only an accepted START writes the Reading, and CONVERT writes it with the verdict. -/
theorem readingCommitsAtOneEdge : Obligations.ReadingCommitsAtOneEdge := by
  intro s t h hr hchange
  by_cases hst : s.regs.st = .convert
  · obtain ⟨hok, -⟩ := step_next_cases s t h
    refine .inr ?_
    cases hf : frameOk s.regs.frame
    · cases h.symm.trans (completesWith_convert_failed ⟨hok, hr, hst⟩ hf)
      exact ⟨hst, rfl, rfl, rfl, nofun, fun _ => ⟨rfl, rfl⟩⟩
    · cases h.symm.trans (completesWith_convert_passed ⟨hok, hr, hst⟩ hf)
      exact ⟨hst, rfl, rfl, rfl, fun _ => ⟨rfl, rfl⟩, nofun⟩
  · have hf := fsmStep_of_step h hr
    rcases fsmInput_cases s with ⟨hidle, v, p, x, _, he⟩ | he
    · rw [fsmStep_of_idle hidle, he] at hf
      rw [← Host.Outcome.next.inj hf]
      exact .inl ⟨hidle, rfl, rfl, rfl, rfl, rfl⟩
    · obtain ⟨htemp, hhum, hsuccess⟩ := fsmStep_keeps_reading hf hst
      rw [htemp, hhum, hsuccess, he] at hchange
      exact absurd hchange (by simp [clocked])

/-- What the Reading shows after CONVERT of a frame, by its variant: temperature, humidity, success (R146, R404). -/
def convertedReading (v : SensorVariant) (f : Frame) : Word × Word × Bool :=
  if frameOk f then (signedWord (convertFrame v f).1, signedWord (convertFrame v f).2, true)
  else (Config.sentinel, Config.sentinel, false)

/-- CONVERT of a safe machine leaves a Reading made from the frame and the variant alone: a frame that fails leaves the
START's sentinel (R149). -/
theorem reading_of_convert {s t : State} (hsafe : Safe s) (hst : s.regs.st = .convert) (hr : (inputNow s).rst = false)
    (h : step s = .next t) :
    (t.regs.temp, t.regs.hum, t.regs.success) = convertedReading s.regs.varQ s.regs.frame := by
  obtain ⟨hok, hc⟩ := hsafe
  unfold convertedReading
  cases hf : frameOk s.regs.frame
  · obtain ⟨⟨htemp, hhum, _⟩, _⟩ := hc.whileBusy (by rw [hst]; nofun)
    cases h.symm.trans (completesWith_convert_failed ⟨hok, hr, hst⟩ hf)
    exact congrArg₂ (fun x y => (x, y, false)) htemp hhum
  · cases h.symm.trans (completesWith_convert_passed ⟨hok, hr, hst⟩ hf)
    rfl

/-- Settles O35: a START writes the sentinel Reading, and CONVERT writes one made from the frame and the variant. -/
theorem eachAcquisitionReplacesTheReading : Obligations.EachAcquisitionReplacesTheReading := by
  refine ⟨fun s t v p x hst h => ?_, fun s u t w hs hu hst hut hframe hvar hrs hru ht hw => ?_⟩
  · rw [exec_eq, afterHost_acquire_idle v p x s.regs hst] at h
    cases h
    exact ⟨rfl, rfl, rfl⟩
  · have hsame : (t.regs.temp, t.regs.hum, t.regs.success) = (w.regs.temp, w.regs.hum, w.regs.success) := by
      rw [reading_of_convert hs hst hrs ht, reading_of_convert hu hut hru hw, hframe, hvar]
    simpa only [Prod.mk.injEq] using hsame

end Sys2Proof.Machine
end
section
/-! The converter's ranges, and where a negative value in TEMP or HUM can come from (42_conversion.md R166, R169). -/

namespace Sys2Proof.Machine

/-! ## Ranges -/

theorem hum11_le (b0 b1 : Byte) : hum11 b0 b1 ≤ 25755 := by
  have h0 : b0.toNat < 256 := b0.isLt
  have h1 : b1.toNat < 256 := b1.isLt
  unfold hum11
  omega

theorem hum22_le (b0 b1 : Byte) : hum22 b0 b1 ≤ 655350 := by
  have h0 : b0.toNat < 256 := b0.isLt
  have h1 : b1.toNat < 256 := b1.isLt
  unfold hum22
  omega

/-- The two DHT11 formulas are one function of their bytes (R161, R162). -/
theorem temp11_eq_hum11 (b2 b3 : Byte) : temp11 b2 b3 = hum11 b2 b3 := rfl

/-- The magnitude has 15 bits, whatever the sign (R164). -/
theorem temp22_bounds (b2 b3 : Byte) : -327670 ≤ temp22 b2 b3 ∧ temp22 b2 b3 ≤ 327670 := by
  have h2 : b2.toNat < 256 := b2.isLt
  have h3 : b3.toNat < 256 := b3.isLt
  rcases Nat.lt_or_ge b2.toNat 128 with hpos | hneg
  · rw [temp22_of_lt hpos]
    omega
  · rw [temp22_of_le hneg]
    omega

/-! ## Exactness -/

/-- A signed register holds an integer of its range exactly (00_scope.md R9); every converter result is far inside. -/
theorem toInt_signedWord {v : Int} (hlo : -327670 ≤ v) (hhi : v ≤ 655350) : (signedWord v).toInt = v :=
  BitVec.toInt_ofInt_eq_self (by decide) (by omega) (by omega)

theorem toInt_signedWord_hum11 (b0 b1 : Byte) : (signedWord (hum11 b0 b1)).toInt = hum11 b0 b1 :=
  toInt_signedWord (by linarith [hum11_nonneg b0 b1]) (by linarith [hum11_le b0 b1])

theorem toInt_signedWord_hum22 (b0 b1 : Byte) : (signedWord (hum22 b0 b1)).toInt = hum22 b0 b1 :=
  toInt_signedWord (by linarith [hum22_nonneg b0 b1]) (hum22_le b0 b1)

theorem toInt_signedWord_temp22 (b2 b3 : Byte) : (signedWord (temp22 b2 b3)).toInt = temp22 b2 b3 := by
  obtain ⟨hlo, hhi⟩ := temp22_bounds b2 b3
  exact toInt_signedWord hlo (by linarith)

/-! ## Negative values -/

/-- The Reading of a coherent record is the sentinel, or the conversion of its own frame (R300, R404). -/
theorem Coherent.reading_cases {p : Params} {r : Regs} (h : Coherent p r) :
    sentinelReading r
    ∨ (r.temp = signedWord (convertFrame r.varQ r.frame).1 ∧ r.hum = signedWord (convertFrame r.varQ r.frame).2) := by
  by_cases hst : r.st = .idle
  · rcases h.atRest hst with ⟨_, hread, _⟩ | ⟨_, _, _, _, _, hconv⟩ | ⟨_, hread, _⟩ | ⟨_, hread, _⟩ | ⟨_, hread, _⟩
    case inr.inl => exact .inr hconv
    all_goals exact .inl hread
  · exact .inl (h.whileBusy hst).1

/-- No converted humidity is negative (R166). -/
theorem toInt_convertFrame_hum_nonneg (v : SensorVariant) (f : Frame) :
    0 ≤ (signedWord (convertFrame v f).2).toInt := by
  cases v
  case dht11 => exact (hum11_nonneg _ _).trans_eq (toInt_signedWord_hum11 _ _).symm
  case dht22 => exact (hum22_nonneg _ _).trans_eq (toInt_signedWord_hum22 _ _).symm

/-- No DHT11 temperature is negative (R166). -/
theorem toInt_convertFrame_temp11_nonneg (f : Frame) : 0 ≤ (signedWord (convertFrame .dht11 f).1).toInt :=
  (hum11_nonneg _ _).trans_eq (toInt_signedWord_hum11 _ _).symm

/-- Settles O38: the results are bounded by their bytes, so a negative register is not a conversion, and the Reading of
a coherent record that is not a conversion is the sentinel. -/
theorem converterResultsFitTheirRegisters : Obligations.ConverterResultsFitTheirRegisters := by
  refine ⟨fun b0 b1 => ?_, fun s ⟨_, hc⟩ => ?_⟩
  · obtain ⟨hlo, hhi⟩ := temp22_bounds b0 b1
    rw [temp11_eq_hum11]
    exact ⟨hum11_nonneg _ _, hum11_le _ _, hum11_nonneg _ _, hum11_le _ _, hum22_nonneg _ _, hum22_le _ _, hlo, hhi,
      toInt_signedWord_hum11 _ _, toInt_signedWord_hum11 _ _, toInt_signedWord_hum22 _ _, toInt_signedWord_temp22 _ _⟩
  · rcases hc.reading_cases with ⟨htemp, hhum, _⟩ | ⟨htemp, hhum⟩
    · rw [htemp, hhum]
      exact ⟨fun _ => sentinel_toInt, fun _ _ => sentinel_toInt⟩
    · rw [htemp, hhum]
      refine ⟨fun hneg => absurd hneg (toInt_convertFrame_hum_nonneg _ _).not_gt, fun hv hneg => ?_⟩
      rw [hv] at hneg
      exact absurd hneg (toInt_convertFrame_temp11_nonneg _).not_gt

/-! ## The sentinel collision -/

/-- R169's frame passes, and the DHT22 formulas make the sentinel's pattern and humidity 0 of it. -/
theorem convertFrame_sentinel_collision :
    frameOk 0x0000A706AD#40 = true ∧ convertFrame .dht22 0x0000A706AD#40 = (Config.sentinelHundredths, 0) := by decide

/-- Settles O39: CONVERT commits the conversion of a frame that passes, and this one's temperature is the sentinel. -/
theorem sentinelCanBeAGoodTemperature : Obligations.SentinelCanBeAGoodTemperature := by
  refine ⟨by decide, by decide, by decide, fun s h hvar hframe => ?_⟩
  obtain ⟨hpass, hvalues⟩ := convertFrame_sentinel_collision
  refine ⟨_, completesWith_convert_passed h (hframe ▸ hpass), ?_, ?_, rfl⟩
  · show signedWord (convertFrame s.regs.varQ s.regs.frame).1 = _
    rw [hvar, hframe, hvalues]
    exact sentinel_eq
  · show signedWord (convertFrame s.regs.varQ s.regs.frame).2 = _
    rw [hvar, hframe, hvalues]
    rfl

end Sys2Proof.Machine
end
section
/-! The transactions that leave no trace: a START while busy, CTRL_NOP, the writes to read-only and reserved addresses,
and the reads that give 0 (43_host_ops.md R182 to R184, R188 to R190, R196, R197). -/

namespace Sys2Proof.Machine

/-! ## A START while busy -/

/-- A START outside IDLE is dropped (R182). -/
theorem exec_acquire_of_busy {s : State} (hst : s.regs.st ≠ .idle) (v : SensorVariant) (p : Bool) (x : BitVec 29) :
    exec (.acquire v p x) s = .next s :=
  (acquireInIdleStartsAnAcquisition s v p x).2 hst

/-- The machine with another word on the host port in the present cycle. -/
def withBus (w : BusWord) (s : State) : State := placeInputs { inputNow s with bus := w } s

/-- The rest of a cycle looks at `rst` and at the line, not at the word on the host port, so a word whose transaction
does nothing leaves only the rest of the cycle. -/
theorem step_withBus_of_noEffect {s : State} {i : Instr} (hok : s.cfg.ok = true)
    (hexec : exec i (withBus (encode i) s) = .next (withBus (encode i) s)) :
    step (withBus (encode i) s) = finishCycle s s := by
  have hfetch : fetch (withBus (encode i) s) = i := decodeOfEncodeIsTheTransaction i
  have hrest : finishCycle (withBus (encode i) s) (withBus (encode i) s) = finishCycle s s := rfl
  rw [← hrest]
  exact step_of_exec hok (by rw [hfetch, hexec])

/-- Settles O15: neither transaction does anything while busy, so both cycles are the rest of the cycle alone. -/
theorem droppedStartLeavesNoTrace : Obligations.DroppedStartLeavesNoTrace := by
  intro s v p r x hst
  change step (withBus (encode (.acquire v p r)) s) = step (withBus (encode (.ctrlNop x)) s)
  cases hok : s.cfg.ok with
  | false => rw [step_of_not_ok (withBus _ s) hok, step_of_not_ok (withBus _ s) hok]
  | true =>
    have hstart := step_withBus_of_noEffect hok (exec_acquire_of_busy (s := withBus _ s) hst v p r)
    have hnop := step_withBus_of_noEffect hok (exec_eq (.ctrlNop x) (withBus _ s))
    exact hstart.trans hnop.symm

/-! ## The encodings -/

/-- A nibble before a DATA word decodes to the transaction that is encoded with its WE and ADDR and that DATA (R70). -/
theorem decode_nibble_append_of_encode {i : Instr} {n : BitVec 4} {d : Word}
    (h : encode i = busWord (n.getLsbD 3) (n.extractLsb' 0 3) d) : decode (n ++ d) = i := by
  rw [decode_nibble_append, ← h]
  exact decodeOfEncodeIsTheTransaction i

/-- A write to CTRL is selected by START (R72). -/
theorem decode_ctrl_append (d : Word) : decode (0x8#4 ++ d) = decodeCtrlWrite d :=
  (decode_nibble_append 0x8#4 d).trans (decode_busWord true 0 d)

/-- START = 1 (R182). -/
theorem decode_ctrl_append_of_start {d : Word} (h : d.getLsbD 0 = true) :
    decode (0x8#4 ++ d) = .acquire (variantOfBit (d.getLsbD 1)) (d.getLsbD 2) (d.extractLsb' 3 29) :=
  (decode_ctrl_append d).trans (if_pos h)

/-- START = 0 (R183). -/
theorem decode_ctrl_append_of_no_start {d : Word} (h : d.getLsbD 0 = false) :
    decode (0x8#4 ++ d) = .ctrlNop (d.extractLsb' 1 31) :=
  (decode_ctrl_append d).trans (if_neg (Bool.eq_false_iff.mp h))

/-- Settles O14: START = 1 selects ACQUIRE, which in IDLE starts the acquisition and while busy is dropped. -/
theorem acquireIsAcceptedInIdleOnly : Obligations.AcquireIsAcceptedInIdleOnly := by
  intro d s hstart
  have hdecode := decode_ctrl_append_of_start hstart
  refine ⟨hdecode, fun hst => ?_, fun hst => ?_⟩
  · rw [hdecode, exec_eq, afterHost_acquire_idle _ _ _ _ hst]
    rfl
  · rw [hdecode]
    exact exec_acquire_of_busy hst _ _ _

/-! ## The reads that give 0 and the writes that are ignored -/

/-- Settles O8: each read has its encoding, and the word it gives is `ctrlWord` or `reservedWord`, which is 0. -/
theorem ctrlAndReservedReadsGiveZero : Obligations.CtrlAndReservedReadsGiveZero := fun d s =>
  ⟨decode_nibble_append_of_encode rfl, exec_eq (.rdCtrl d) s,
    decode_nibble_append_of_encode rfl, exec_eq (.rdRsvd5 d) s,
    decode_nibble_append_of_encode rfl, exec_eq (.rdRsvd6 d) s,
    decode_nibble_append_of_encode rfl, exec_eq (.rdRsvd7 d) s⟩

/-- Settles O12: each write has its encoding, and neither the record nor the host's word changes. -/
theorem ignoredWritesChangeNothing : Obligations.IgnoredWritesChangeNothing := fun d s =>
  ⟨decode_ctrl_append_of_no_start, fun x => exec_eq (.ctrlNop x) s,
    decode_nibble_append_of_encode rfl, exec_eq (.wrStatus d) s,
    decode_nibble_append_of_encode rfl, exec_eq (.wrTemp d) s,
    decode_nibble_append_of_encode rfl, exec_eq (.wrHum d) s,
    decode_nibble_append_of_encode rfl, exec_eq (.wrRsvd5 d) s,
    decode_nibble_append_of_encode rfl, exec_eq (.wrRsvd6 d) s,
    decode_nibble_append_of_encode rfl, exec_eq (.wrRsvd7 d) s⟩

end Sys2Proof.Machine
end
section
/-! The events of one cycle against each other, the endings of an acquisition, the wait phases and IDLE over many
cycles, and the greatest length of an acquisition (60_exceptions.md R300 to R307, R318, R319). -/

namespace Sys2Proof.Machine

/-! ## Priority within one cycle (R307) -/

/-- The word on the host port of a busy machine reaches the limit of the record FsmStep writes over, and nothing else
of it. -/
theorem fsmInput_withBus {s : State} (hst : s.regs.st ≠ .idle) (w : BusWord) :
    fsmInput (withBus w s) = setPorts (inputNow s).dqIn (limitAfter (decode w) s.regs.toLimit) (fsmInput s) := by
  rw [fsmInput_of_busy s hst, fsmInput_of_busy (withBus w s) hst]
  rfl

/-- Settles O31: a wait phase looks at the level first, a START while busy is dropped, and the host's word passes
through FsmStep in the limit only. -/
theorem priorityWithinOneCycle : Obligations.PriorityWithinOneCycle := by
  refine ⟨fun s row hrow h hlevel _ => ?_, fun s v p x hst => exec_acquire_of_busy hst v p x,
    fun _ _ s' hst => fsmStep_of_idle hst s', fun s t u w hst hr ht hu => ?_⟩
  · exact ⟨_, completesWith_of_changed hrow h hlevel, rfl, rfl, rfl⟩
  · have hf := fsmStep_of_step ht hr
    have hfu := fsmStep_of_step (s := withBus w s) hu hr
    obtain ⟨hflop, _⟩ := fsmStep_frame hf
    rw [fsmInput_withBus hst, show (inputNow s).dqIn = t.regs.sync1 from hflop.symm] at hfu
    exact Host.Outcome.next.inj (hfu.symm.trans (fsmStep_setPorts hf _ _))

/-! ## The endings (R300, R301) -/

/-- The codes of R301: NO_RESPONSE in RESP_WAIT_H, TIMING_ERROR in the other wait phases. -/
theorem code_of_waitRow {row : Phase × Bool × Phase × ErrCode} (hrow : row ∈ waitRows) :
    (row.1 = .respWaitH ∧ row.2.2.2 = .noResponse)
    ∨ ((row.1 = .respL ∨ row.1 = .respH ∨ row.1 = .bitGapH ∨ row.1 = .bitStartL) ∧ row.2.2.2 = .timingError) := by
  revert row
  decide

/-- The outcomes of R300 with no error are the two of CONVERT, which the checksum tells apart. -/
theorem Coherent.outcome_of_done_of_no_error {p : Params} {r : Regs} (h : Coherent p r) (hst : r.st = .idle)
    (hdone : r.done = true) (herr : r.err = .none) : outcomePassed r ∨ outcomeFailed r := by
  rcases h.atRest hst with ⟨hfresh, _⟩ | hpassed | hfailed | ⟨_, _, hcode, _⟩ | ⟨_, _, hcode, _⟩
  · rw [hdone] at hfresh; cases hfresh
  · exact .inl hpassed
  · exact .inr hfailed
  · rw [herr] at hcode; cases hcode
  · rw [herr] at hcode; cases hcode

/-- A timeout shows the outcome of its phase. -/
theorem Coherent.outcome_of_waitRow {p : Params} {r : Regs} (h : Coherent p r)
    {row : Phase × Bool × Phase × ErrCode} (hrow : row ∈ waitRows) (hst : r.st = row.1) :
    (row.1 = .respWaitH ∧ outcomeNoResponse (failTimeout row.2.2.2 row.1 r))
    ∨ ((row.1 = .respL ∨ row.1 = .respH ∨ row.1 = .bitGapH ∨ row.1 = .bitStartL)
      ∧ outcomeTimingError (failTimeout row.2.2.2 row.1 r)) := by
  obtain ⟨_, hout⟩ := h.outcome_of_timeout hrow hst
  rcases code_of_waitRow hrow with ⟨hph, hcode⟩ | ⟨hph, hcode⟩
  · exact .inl ⟨hph, hout.resolve_right fun ⟨_, _, herr, _⟩ => absurd (hcode.symm.trans herr) nofun⟩
  · exact .inr ⟨hph, hout.resolve_left fun ⟨_, _, herr, _⟩ => absurd (hcode.symm.trans herr) nofun⟩

/-- Settles O43: FsmStep ends an acquisition in CONVERT or by a timeout of a wait phase, and the record that it leaves
is coherent. -/
theorem acquisitionEndsInOneOfFourWays : Obligations.AcquisitionEndsInOneOfFourWays := by
  intro s t hsafe hstep hr hbusy hidle
  have hf := fsmStep_of_step hstep hr
  have hend := coherent_fsmStep hsafe hf
  have hclocked := coherent_clocked hsafe.2
  obtain ⟨_, _, herr, _⟩ := hsafe.2.whileBusy hbusy
  rw [fsmInput_of_busy s hbusy] at hf
  generalize t.regs = r at *
  rcases fsmStep_cases hf with ⟨hst, _⟩ | ⟨row, hrow, hst, ⟨_, rfl⟩ | ⟨_, rfl⟩⟩
    | ⟨row, hrow, hst, ⟨_, rfl⟩ | ⟨_, _, rfl⟩ | ⟨_, _, rfl⟩⟩ | ⟨hst, rfl⟩ | ⟨hst, _, rfl⟩ | ⟨hst, _, rfl⟩
  · exact absurd hst hbusy
  · obtain ⟨_, _, hq⟩ := follows_of_timedRow hrow
    exact absurd hidle hq
  · exact absurd hidle hbusy
  · obtain ⟨_, _, _, hq, _⟩ := follows_of_waitRow hrow
    exact absurd hidle hq
  · rw [hst]
    rcases hclocked.outcome_of_waitRow hrow hst with hout | ⟨hph, hout⟩
    · exact .inr (.inl hout)
    · exact .inr (.inr ⟨hph, hout, rfl⟩)
  · exact absurd hidle hbusy
  · cases hlast : s.regs.bitIdx == 39 <;> rw [hlast] at hidle <;> cases hidle
  · exact .inl ⟨hst, hend.outcome_of_done_of_no_error rfl rfl herr⟩
  · exact .inl ⟨hst, hend.outcome_of_done_of_no_error rfl rfl herr⟩

/-! ## IDLE over many cycles (R318) -/

/-- Settles O48: each cycle of IDLE moves the synchronizer only, so the record at the end is the first one with another
synchronizer. -/
theorem idleHoldsEveryField : Obligations.IdleHoldsEveryField := by
  intro n s hok hst hin
  induction n with
  | zero => exact ⟨s, rfl, rfl⟩
  | succ n ih =>
    obtain ⟨t, ht, hregs⟩ := ih fun j hj => hin j (Nat.lt_succ_of_lt hj)
    obtain ⟨hr, hstart, hlimit⟩ := hin n n.lt_succ_self
    rw [← inputNow_of_run ht] at hr hstart hlimit
    have hcfg : t.cfg = s.cfg := (run_frame n s t ht).1
    have hidle : t.regs.st = .idle := by rw [hregs]; exact hst
    have hstep := completesWith_of_idle ⟨hcfg ▸ hok, hr, hidle⟩ hstart
    refine ⟨_, (run_succ n s t ht).trans hstep, ?_⟩
    have hkept : limitAfter (fetch t) t.regs.toLimit = s.regs.toLimit := by rw [hregs]; exact hlimit
    simp only [clocked, hkept]
    rw [hregs]

/-! ## A held level with a limit (R303) -/

/-- A limit that is not 0 is some number of cycles, and the counter reaches it without saturating (R25, R303). -/
theorem limit_cycles {p : Params} (hok : p.ok = true) {limitUs : BitVec 16} (hlimit : limitUs ≠ 0) :
    1 ≤ limitUs.toNat * p.clkPerUs ∧ limitUs.toNat * p.clkPerUs < 2 ^ 32 - 1 := by
  obtain ⟨hclk, hclk', _⟩ := params_bounds hok
  have hpos : 1 ≤ limitUs.toNat := Nat.pos_of_ne_zero fun h => hlimit (BitVec.eq_of_toNat_eq h)
  have hle : limitUs.toNat ≤ 65535 := Nat.le_of_lt_succ limitUs.isLt
  exact ⟨Nat.mul_le_mul hpos hclk, (Nat.mul_le_mul hle hclk').trans_lt (by decide)⟩

/-- A wait phase after `k` cycles with its level, of the `total` that a limit allows: the flops hold the level as far
as the checks of those cycles look. -/
structure Waiting (row : Phase × Bool × Phase × ErrCode) (limitUs : BitVec 16) (total k : Nat) (s : State) : Prop where
  phase : s.regs.st = row.1
  count : s.regs.tcnt.toNat = k
  limit : s.regs.toLimit = limitUs
  flop2 : s.regs.sync2 = row.2.1
  flop1 : k + 1 < total → s.regs.sync1 = row.2.1

section
variable {row : Phase × Bool × Phase × ErrCode} {limitUs : BitVec 16} {total k : Nat} {s : State}

/-- TimeoutCheck in the cycle after `k`: true from the last cycle on. -/
theorem Waiting.timeoutCheck_iff (h : Waiting row limitUs total k s) (hlimit : limitUs ≠ 0)
    (htotal : total = limitUs.toNat * s.cfg.clkPerUs) : timeoutCheck s.cfg s.regs = true ↔ total ≤ k + 1 := by
  rw [Machine.timeoutCheck_iff, h.limit, h.count, ← htotal]
  exact and_iff_right hlimit

/-- A cycle before the last one counts. -/
theorem Waiting.step_next (h : Waiting row limitUs total k s) (hrow : row ∈ waitRows) (hok : s.cfg.ok = true)
    (hlimit : limitUs ≠ 0) (htotal : total = limitUs.toNat * s.cfg.clkPerUs) (hk : k + 1 < total)
    (hd : k + 2 < total → (inputNow s).dqIn = row.2.1) (hr : (inputNow s).rst = false)
    (hl : limitAfter (fetch s) limitUs = limitUs) : ∃ t, step s = .next t ∧ Waiting row limitUs total (k + 1) t := by
  have hcheck : timeoutCheck s.cfg s.regs = false :=
    Bool.eq_false_iff.mpr fun ht => Nat.not_le.mpr hk ((h.timeoutCheck_iff hlimit htotal).mp ht)
  have hmax := (limit_cycles hok hlimit).2
  have hcount : (saturatingSucc s.regs.tcnt).toNat = k + 1 := by
    rw [saturatingSucc_toNat, h.count]
    omega
  refine ⟨_, completesWith_of_held hrow ⟨hok, hr, h.phase⟩ h.flop2 hcheck, h.phase, hcount, ?_, h.flop1 hk, hd⟩
  exact (congrArg (limitAfter (fetch s)) h.limit).trans hl

/-- The last cycle ends the acquisition (R304). -/
theorem Waiting.step_last (h : Waiting row limitUs total k s) (hrow : row ∈ waitRows) (hok : s.cfg.ok = true)
    (hlimit : limitUs ≠ 0) (htotal : total = limitUs.toNat * s.cfg.clkPerUs) (hk : k + 1 = total)
    (hr : (inputNow s).rst = false) :
    ∃ t, step s = .next t ∧ t.regs.st = .idle ∧ t.regs.done = true ∧ t.regs.err = row.2.2.2
      ∧ t.regs.errPhase = row.1 := by
  have hcheck := (h.timeoutCheck_iff hlimit htotal).mpr hk.ge
  have hstep := completesWith_waitPhase hrow ⟨hok, hr, h.phase⟩
  rw [waitPhase_of_timeout h.flop2 hcheck] at hstep
  exact ⟨_, hstep, rfl, rfl, rfl, rfl⟩

/-- A run within the limit counts its cycles. -/
theorem Waiting.run_next (h : Waiting row limitUs total 0 s) (hrow : row ∈ waitRows) (hok : s.cfg.ok = true)
    (hlimit : limitUs ≠ 0) (htotal : total = limitUs.toNat * s.cfg.clkPerUs)
    (hd : ∀ j, j + 2 < total → (inputAt s j).dqIn = row.2.1) (hr : ∀ j, j < total → (inputAt s j).rst = false)
    (hl : ∀ j, j + 1 < total → limitAfter (decode (inputAt s j).bus) limitUs = limitUs) (k : Nat) (hk : k < total) :
    ∃ t, run k s = .next t ∧ Waiting row limitUs total k t := by
  induction k with
  | zero => exact ⟨s, rfl, h⟩
  | succ k ih =>
    obtain ⟨t, ht, hwait⟩ := ih (Nat.lt_of_succ_lt hk)
    have hin := inputNow_of_run ht
    have hcfg : t.cfg = s.cfg := (run_frame k s t ht).1
    obtain ⟨u, hu, hwait'⟩ := hwait.step_next hrow (hcfg ▸ hok) hlimit (hcfg ▸ htotal) hk
      (fun hk' => hin ▸ hd k hk') (hin ▸ hr k (Nat.lt_of_succ_lt hk)) (by rw [fetch, hin]; exact hl k hk)
    exact ⟨u, (run_succ k s t ht).trans hu, hwait'⟩

end

/-- Settles O46: the phase waits in each cycle below the limit, and the check of the last of them is the first that is
true. -/
theorem timeoutFiresAfterExactlyTheLimit : Obligations.TimeoutFiresAfterExactlyTheLimit := by
  intro s limitUs total row hrow hok hst hzero hlim hlimit htotal h2 h1 hd hr hl
  have hstart : Waiting row limitUs total 0 s := ⟨hst, by rw [hzero]; rfl, hlim, h2, h1⟩
  have hrun := hstart.run_next hrow hok hlimit htotal hd hr hl
  refine ⟨fun k hk => ?_, ?_⟩
  · obtain ⟨t, ht, hwait⟩ := hrun k hk
    exact ⟨t, ht, hwait.phase, hwait.count⟩
  · obtain ⟨k, hk⟩ := Nat.exists_eq_add_of_le' (htotal ▸ (limit_cycles hok hlimit).1 : 1 ≤ total)
    obtain ⟨t, ht, hwait⟩ := hrun k (by omega)
    have hcfg : t.cfg = s.cfg := (run_frame k s t ht).1
    obtain ⟨u, hu, hend⟩ := hwait.step_last hrow (hcfg ▸ hok) hlimit (hcfg ▸ htotal) hk.symm
      (by rw [inputNow_of_run ht]; exact hr k (by omega))
    exact ⟨u, by rw [hk, run_succ k s t ht, hu], hend⟩

/-! ## The greatest length of an acquisition (R319) -/

/-- An upper bound on the cycles from a phase to IDLE, with a count of `n` cycles, `m` bits to come after the present
one, and a limit of `lim` cycles: the rest of the phase, at least the present cycle, and the phases to come in full. -/
def cyclesToIdle (p : Params) (lim : Nat) (ph : Phase) (n m : Nat) : Nat :=
  match ph with
  | .idle | .reserved _ => 0
  | .req => max 1 (p.durReq - n) + p.durSettle + 3 * lim + (m + 1) * (2 * lim + p.durSample + 1) + 1
  | .settle => max 1 (p.durSettle - n) + 3 * lim + (m + 1) * (2 * lim + p.durSample + 1) + 1
  | .respWaitH => max 1 (lim - n) + 2 * lim + (m + 1) * (2 * lim + p.durSample + 1) + 1
  | .respL => max 1 (lim - n) + lim + (m + 1) * (2 * lim + p.durSample + 1) + 1
  | .respH => max 1 (lim - n) + (m + 1) * (2 * lim + p.durSample + 1) + 1
  | .bitGapH => max 1 (lim - n) + lim + p.durSample + 1 + m * (2 * lim + p.durSample + 1) + 1
  | .bitStartL => max 1 (lim - n) + p.durSample + 1 + m * (2 * lim + p.durSample + 1) + 1
  | .bitDelay => max 1 (p.durSample - n) + 1 + m * (2 * lim + p.durSample + 1) + 1
  | .bitSample => 1 + m * (2 * lim + p.durSample + 1) + 1
  | .convert => 1

/-- The bound of the first REQ cycle is R319's. -/
theorem cyclesToIdle_start {p : Params} (hok : p.ok = true) (n : Nat) :
    cyclesToIdle p (n * p.clkPerUs) .req 0 39 = maxCycles p n := by
  obtain ⟨_, _, hreq, _⟩ := params_bounds hok
  simp only [cyclesToIdle, maxCycles]
  omega

/-- A busy legal phase is at least one cycle from IDLE. -/
theorem cyclesToIdle_pos (p : Params) (lim : Nat) {ph : Phase} (hlegal : ph.legal = true) (hbusy : ph ≠ .idle)
    (n m : Nat) : 0 < cyclesToIdle p lim ph n m := by
  cases ph with
  | idle => exact absurd rfl hbusy
  | reserved k => cases hlegal
  | _ => exact Nat.succ_pos _

theorem cyclesToIdle_timedRow {p : Params} (hok : p.ok = true) {lim : Nat} (hlim : 1 ≤ lim)
    {row : Phase × Nat × Phase} (hrow : row ∈ timedRows p) (n m : Nat) :
    cyclesToIdle p lim row.2.2 0 m < cyclesToIdle p lim row.1 n m
    ∧ (n + 1 < row.2.1 → cyclesToIdle p lim row.1 (n + 1) m < cyclesToIdle p lim row.1 n m) := by
  obtain ⟨_, _, _, _, hsettle, _⟩ := params_bounds hok
  simp only [timedRows, List.mem_cons, List.not_mem_nil, or_false] at hrow
  rcases hrow with rfl | rfl | rfl
  all_goals
    simp only [cyclesToIdle]
    exact ⟨by omega, fun h => by omega⟩

theorem cyclesToIdle_waitRow {p : Params} (hok : p.ok = true) {lim : Nat} (hlim : 1 ≤ lim)
    {row : Phase × Bool × Phase × ErrCode} (hrow : row ∈ waitRows) (n m : Nat) :
    cyclesToIdle p lim row.2.2.1 0 m < cyclesToIdle p lim row.1 n m
    ∧ (n + 1 < lim → cyclesToIdle p lim row.1 (n + 1) m < cyclesToIdle p lim row.1 n m) := by
  obtain ⟨_, _, _, _, _, _, hsample, _⟩ := params_bounds hok
  simp only [waitRows, List.mem_cons, List.not_mem_nil, or_false] at hrow
  rcases hrow with rfl | rfl | rfl | rfl | rfl
  all_goals
    simp only [cyclesToIdle, Nat.succ_mul]
    exact ⟨by omega, fun h => by omega⟩

/-- The bits to come after the present one, `bit_idx` counting in 6 bits (R28, R113). -/
def bitsLeft (b : BitVec 6) : Nat := (39 - b).toNat

theorem bitsLeft_succ {b : BitVec 6} (h : b ≠ 39) : bitsLeft b = bitsLeft (b + 1) + 1 := by
  revert b
  decide

theorem cyclesToIdle_bitSample (p : Params) {lim : Nat} (hlim : 1 ≤ lim) (n : Nat) (b : BitVec 6) :
    cyclesToIdle p lim (if b == 39 then .convert else .bitGapH) 0 (bitsLeft (b + 1))
      < cyclesToIdle p lim .bitSample n (bitsLeft b) := by
  by_cases hlast : b = 39
  · rw [if_pos (beq_iff_eq.mpr hlast)]
    simp only [cyclesToIdle]
    omega
  · rw [if_neg (by rw [beq_iff_eq]; exact hlast), bitsLeft_succ hlast]
    simp only [cyclesToIdle, Nat.succ_mul]
    omega

/-- The bound of a record, under a limit of `lim` cycles. -/
def cyclesLeft (p : Params) (lim : Nat) (r : Regs) : Nat := cyclesToIdle p lim r.st r.tcnt.toNat (bitsLeft r.bitIdx)

/-- FsmStep brings a busy record nearer to IDLE. -/
theorem cyclesLeft_fsmStep {p : Params} {s s' r : Regs} (hok : p.ok = true) (hlimit : s.toLimit ≠ 0)
    (h : fsmStep p s s' = .next r) (hbusy : s.st ≠ .idle) (hst' : s'.st = s.st) (hbits' : s'.bitIdx = s.bitIdx) :
    cyclesLeft p (s.toLimit.toNat * p.clkPerUs) r < cyclesLeft p (s.toLimit.toNat * p.clkPerUs) s := by
  obtain ⟨hlim, hmax⟩ := limit_cycles hok hlimit
  have hpos : 0 < cyclesLeft p (s.toLimit.toNat * p.clkPerUs) s :=
    cyclesToIdle_pos p _ (legal_of_fsmStep h) hbusy _ _
  rcases fsmStep_cases h with ⟨hst, _⟩ | ⟨row, hrow, hst, ⟨_, rfl⟩ | ⟨hlt, rfl⟩⟩
    | ⟨row, hrow, hst, ⟨_, rfl⟩ | ⟨_, _, rfl⟩ | ⟨_, hcheck, rfl⟩⟩ | ⟨hst, rfl⟩ | ⟨_, _, rfl⟩ | ⟨_, _, rfl⟩
  · exact absurd hst hbusy
  · simp only [cyclesLeft, hst, hbits']
    exact (cyclesToIdle_timedRow hok hlim hrow _ _).1
  · have hn := Nat.mod_eq_of_lt (tcntFits_of_timedRow hok hrow hlt).1
    simp only [cyclesLeft, hst', hst, hbits', BitVec.toNat_ofNat, hn]
    exact (cyclesToIdle_timedRow hok hlim hrow _ _).2 hlt
  · simp only [cyclesLeft, hst, hbits']
    exact (cyclesToIdle_waitRow hok hlim hrow _ _).1
  · exact hpos
  · have hlt : s.tcnt.toNat + 1 < s.toLimit.toNat * p.clkPerUs :=
      Nat.lt_of_not_le fun hle => Bool.eq_false_iff.mp hcheck ((timeoutCheck_iff p s).mpr ⟨hlimit, hle⟩)
    have hn : min (s.tcnt.toNat + 1) (2 ^ 32 - 1) = s.tcnt.toNat + 1 := min_eq_left (hlt.trans hmax).le
    simp only [cyclesLeft, hst', hst, hbits', saturatingSucc_toNat, hn]
    exact (cyclesToIdle_waitRow hok hlim hrow _ _).2 hlt
  · simp only [cyclesLeft, hst]
    exact cyclesToIdle_bitSample p hlim _ _
  · exact hpos
  · exact hpos

/-- A cycle of a busy machine with a limit that stays, without a reset, brings it nearer to IDLE. -/
theorem step_brings_idle_nearer {s : State} (hok : s.cfg.ok = true) (hlegal : s.regs.st.legal = true)
    (hbusy : s.regs.st ≠ .idle) (hlimit : s.regs.toLimit ≠ 0) (hr : (inputNow s).rst = false)
    (hl : limitAfter (fetch s) s.regs.toLimit = s.regs.toLimit) :
    ∃ t, step s = .next t ∧ t.cfg = s.cfg ∧ t.regs.st.legal = true ∧ t.regs.toLimit = s.regs.toLimit
      ∧ (∀ j, inputAt t j = inputAt s (j + 1))
      ∧ cyclesLeft s.cfg (s.regs.toLimit.toNat * s.cfg.clkPerUs) t.regs
        < cyclesLeft s.cfg (s.regs.toLimit.toNat * s.cfg.clkPerUs) s.regs := by
  obtain ⟨r, hf⟩ := fsmStep_of_legal s.cfg s.regs (clocked s) hlegal
  have hstep := completesWith_of_busy ⟨hok, hr, rfl⟩ hbusy r hf
  obtain ⟨_, _, _, _, hkept⟩ := fsmStep_frame hf
  exact ⟨_, hstep, rfl, fsmStep_legal hf hlegal, hkept.trans hl, inputAt_succ_of_tail s _ rfl rfl,
    cyclesLeft_fsmStep hok hlimit hf hbusy rfl rfl⟩

/-- A machine whose bound is at most `n` cycles is in IDLE after at most `n` cycles. -/
theorem run_reaches_idle {limitUs : BitVec 16} (hlimit : limitUs ≠ 0) (n : Nat) {s : State} (hok : s.cfg.ok = true)
    (hlegal : s.regs.st.legal = true) (hlim : s.regs.toLimit = limitUs)
    (hle : cyclesLeft s.cfg (limitUs.toNat * s.cfg.clkPerUs) s.regs ≤ n)
    (hin : ∀ j, j < n → (inputAt s j).rst = false ∧ limitAfter (decode (inputAt s j).bus) limitUs = limitUs) :
    ∃ (k : Nat) (t : State), k ≤ n ∧ run k s = .next t ∧ t.regs.st = .idle := by
  induction n generalizing s with
  | zero =>
    refine ⟨0, s, le_rfl, rfl, by_contra fun hbusy => ?_⟩
    exact Nat.not_le.mpr (cyclesToIdle_pos s.cfg _ hlegal hbusy _ _) hle
  | succ n ih =>
    by_cases hidle : s.regs.st = .idle
    · exact ⟨0, s, Nat.zero_le _, rfl, hidle⟩
    subst hlim
    obtain ⟨hr, hl⟩ := hin 0 n.succ_pos
    obtain ⟨t, hstep, hcfg, hlegal', hkept, hinputs, hlt⟩ := step_brings_idle_nearer hok hlegal hidle hlimit hr hl
    obtain ⟨k, u, hk, hrun, hu⟩ := ih (s := t) (hcfg ▸ hok) hlegal' hkept
      (by rw [hcfg]; exact Nat.le_of_lt_succ (hlt.trans_le hle))
      (fun j hj => by rw [hinputs]; exact hin (j + 1) (Nat.succ_lt_succ hj))
    exact ⟨k + 1, u, Nat.succ_le_succ hk, (run_succ_of_step k s t hstep).trans hrun, hu⟩

/-- Settles O51: the bound of the first REQ cycle is R319's, and each cycle of a busy machine lowers it. -/
theorem acquisitionEndsWithinTheBound : Obligations.AcquisitionEndsWithinTheBound := by
  intro s limitUs hok hst hzero hbits hlim hlimit hin
  have hbound : cyclesLeft s.cfg (limitUs.toNat * s.cfg.clkPerUs) s.regs = maxCycles s.cfg limitUs.toNat := by
    rw [cyclesLeft, hst, hzero, hbits]
    exact cyclesToIdle_start hok _
  exact run_reaches_idle hlimit _ hok (by rw [hst]; rfl) hlim hbound.le hin

end Sys2Proof.Machine
end
section
/-! What the host reads after reset (R401), and a limit written during a wait phase (R407). -/

namespace Sys2Proof.Machine

/-! ## The reads after reset (R401) -/

/-- A transaction that leaves the record as it is, as a read does, completes with its word and nothing else (20_memory.md
R53, R58). -/
theorem exec_of_kept {i : Instr} {s : State} {w : Word} (hkept : afterHost i s.regs = s.regs)
    (hword : hostWord i s = w) : exec i s = .next { s with rdata := w } := by
  rw [exec_eq, hkept, hword]

/-- STATUS of RESET_STATE: every field of R73's word is 0. -/
theorem statusWord_reset : statusWord Regs.reset = 0x00000000#32 := by decide

/-- TIMEOUT of RESET_STATE: the timeout is off. -/
theorem timeoutWord_reset : timeoutWord Regs.reset = 0x00000000#32 := by decide

/-- Settles O6: each read gives its word of RESET_STATE; CTRL and the reserved addresses give 0 in every state. -/
theorem readsAfterResetGiveTheListedValues : Obligations.ReadsAfterResetGiveTheListedValues := by
  intro s d hregs
  have hstatus : statusWord s.regs = 0x00000000#32 := hregs ▸ statusWord_reset
  have htemp : tempWord s.regs = 0xFFFE79C4#32 := hregs ▸ sentinel_eq
  have hhum : humWord s.regs = 0xFFFE79C4#32 := hregs ▸ sentinel_eq
  have htimeout : timeoutWord s.regs = 0x00000000#32 := hregs ▸ timeoutWord_reset
  exact ⟨exec_of_kept rfl rfl, exec_of_kept rfl hstatus, exec_of_kept rfl htemp, exec_of_kept rfl hhum,
    exec_of_kept rfl htimeout, exec_of_kept rfl rfl, exec_of_kept rfl rfl, exec_of_kept rfl rfl⟩

/-! ## A limit written during a wait phase (R407) -/

/-- A cycle of a wait phase whose level holds and whose check is true. -/
theorem completesWith_of_timeout {s : State} {row : Phase × Bool × Phase × ErrCode} (hrow : row ∈ waitRows)
    (h : runsPhase s row.1) (hlevel : s.regs.sync2 = row.2.1) (ht : timeoutCheck s.cfg s.regs = true) :
    completesWith s (failTimeout row.2.2.2 row.1 (clocked s)) :=
  waitPhase_of_timeout hlevel ht (clocked s) ▸ completesWith_waitPhase hrow h

/-- A limit that is at most `n + 2` cycles has been reached once the count has gone up from `n`: it lies below the value
at which the counter saturates (R25, R303). -/
theorem timeoutCheck_saturatingSucc {p : Params} {r : Regs} {n : BitVec 32} {limitUs : BitVec 16}
    (hok : p.ok = true) (hlimit : limitUs ≠ 0) (hle : limitUs.toNat * p.clkPerUs ≤ n.toNat + 2)
    (hcount : r.tcnt = saturatingSucc n) (hstored : r.toLimit = limitUs) : timeoutCheck p r = true := by
  have hmax := (limit_cycles hok hlimit).2
  rw [timeoutCheck_iff, hstored, hcount, saturatingSucc_toNat]
  exact ⟨hlimit, by omega⟩

/-- Settles O32: the cycle of the write counts and stores the limit; in the next one the level that the first flop has
handed on ends the phase, or else the check finds the new limit reached. -/
theorem newLimitActsInTheNextCycle : Obligations.NewLimitActsInTheNextCycle := by
  intro s limitUs rsvd row hrow hphase hlevel hcheck hfetch hlimit hle
  have ⟨hok, _, hst⟩ := hphase
  have hstored : limitAfter (fetch s) s.regs.toLimit = limitUs := by rw [hfetch]; rfl
  refine ⟨_, completesWith_of_held hrow hphase hlevel hcheck, hst, hstored, fun hr => ?_⟩
  by_cases hline : s.regs.sync1 = row.2.1
  · exact ⟨_, completesWith_of_timeout hrow ⟨hok, hr, hst⟩ hline
      (timeoutCheck_saturatingSucc hok hlimit hle rfl hstored), fun _ => ⟨rfl, rfl, rfl⟩, (absurd hline ·)⟩
  · exact ⟨_, completesWith_of_changed hrow ⟨hok, hr, hst⟩ hline, (absurd · hline), fun _ => ⟨rfl, rfl⟩⟩

end Sys2Proof.Machine
end
section
/-! The encoding, from the word's side: every word is the encoding of a transaction, so that `encode` and `decode` are
inverse to each other, and the words the spec writes out are read by encoding (30_encoding.md R70 to R72, R76, R84). -/

namespace Sys2Proof

/-! ## A DATA word is put together again from its fields -/

/-- CTRL bit 1 is the code of the variant it stands for (R72). -/
@[simp] theorem bit_variantOfBit (b : Bool) : (variantOfBit b).bit = b := by
  cases b <;> rfl

/-- A DATA word with START = 1 is the DATA word of ACQUIRE with the fields above START (R72). -/
theorem acquireData_of_fields {d : Word} (hstart : d.getLsbD 0 = true) :
    acquireData (variantOfBit (d.getLsbD 1)) (d.getLsbD 2) (d.extractLsb' 3 29) = d := by
  apply BitVec.eq_of_getLsbD_eq
  intro i hi
  rw [getLsbD_acquireData, bit_variantOfBit, BitVec.getLsbD_extractLsb']
  match i with
  | 0 => exact hstart.symm
  | 1 => rfl
  | 2 => rfl
  | n + 3 =>
    have hrsvd : n < 29 := by omega
    simp [hrsvd, Nat.add_comm]

/-- A DATA word with START = 0 is the DATA word of CTRL_NOP with the rest of it (R72, R183). -/
theorem ctrlNopData_of_fields {d : Word} (hstart : d.getLsbD 0 = false) : ctrlNopData (d.extractLsb' 1 31) = d := by
  apply BitVec.eq_of_getLsbD_eq
  intro i hi
  rw [getLsbD_ctrlNopData, BitVec.getLsbD_extractLsb']
  match i with
  | 0 => exact hstart.symm
  | n + 1 =>
    have hrest : n < 31 := by omega
    simp [hrest, Nat.add_comm]

/-- Every DATA word is the DATA word of WR_TIMEOUT with its two halves (R76). -/
theorem timeoutData_of_fields (d : Word) : timeoutData (d.extractLsb' 0 16) (d.extractLsb' 16 16) = d :=
  BitVec.extractLsb'_append_extractLsb'

/-! ## Every word is the encoding of a transaction -/

/-- A write to CTRL is the encoding of an ACQUIRE or of a CTRL_NOP, by its bit START (R72). -/
theorem exists_encode_eq_ctrlWrite (d : Word) : ∃ i : Instr, encode i = busWord true 0 d := by
  cases hstart : d.getLsbD 0 with
  | true => exact ⟨.acquire _ _ _, congrArg (busWord true 0) (acquireData_of_fields hstart)⟩
  | false => exact ⟨.ctrlNop _, congrArg (busWord true 0) (ctrlNopData_of_fields hstart)⟩

/-- ADDR takes eight values. -/
theorem addr_cases (a : BitVec 3) : a = 0 ∨ a = 1 ∨ a = 2 ∨ a = 3 ∨ a = 4 ∨ a = 5 ∨ a = 6 ∨ a = 7 := by
  revert a; decide

/-- The opcode map leaves no WE and ADDR out (R71). -/
theorem exists_encode_eq_busWord (we : Bool) (a : BitVec 3) (d : Word) : ∃ i : Instr, encode i = busWord we a d := by
  cases we with
  | false =>
    obtain rfl | rfl | rfl | rfl | rfl | rfl | rfl | rfl := addr_cases a
    · exact ⟨.rdCtrl d, rfl⟩
    · exact ⟨.rdStatus d, rfl⟩
    · exact ⟨.rdTemp d, rfl⟩
    · exact ⟨.rdHum d, rfl⟩
    · exact ⟨.rdTimeout d, rfl⟩
    · exact ⟨.rdRsvd5 d, rfl⟩
    · exact ⟨.rdRsvd6 d, rfl⟩
    · exact ⟨.rdRsvd7 d, rfl⟩
  | true =>
    obtain rfl | rfl | rfl | rfl | rfl | rfl | rfl | rfl := addr_cases a
    · exact exists_encode_eq_ctrlWrite d
    · exact ⟨.wrStatus d, rfl⟩
    · exact ⟨.wrTemp d, rfl⟩
    · exact ⟨.wrHum d, rfl⟩
    · exact ⟨.wrTimeout _ _, congrArg (busWord true 4) (timeoutData_of_fields d)⟩
    · exact ⟨.wrRsvd5 d, rfl⟩
    · exact ⟨.wrRsvd6 d, rfl⟩
    · exact ⟨.wrRsvd7 d, rfl⟩

theorem encode_surjective : Function.Surjective encode := fun w =>
  busWord_of_fields w ▸ exists_encode_eq_busWord (w.getLsbD 35) (w.extractLsb' 32 3) (busData w)

/-- Settles O2: the word is the encoding of some transaction, which is the one it decodes to. -/
theorem encodeOfDecodeIsTheWord : Obligations.EncodeOfDecodeIsTheWord := by
  intro w
  obtain ⟨i, rfl⟩ := encode_surjective w
  exact congrArg encode (decodeOfEncodeIsTheTransaction i)

/-! ## The words the spec writes out -/

/-- To decode a word is to find the transaction it is the encoding of. -/
theorem decode_eq_iff (w : BusWord) (i : Instr) : decode w = i ↔ encode i = w :=
  ⟨fun h => h ▸ encodeOfDecodeIsTheWord w, fun h => h ▸ decodeOfEncodeIsTheTransaction i⟩

/-- Settles O4: each of the ten words is the encoding of its transaction. -/
theorem writtenWordsDecodeAsTheSpecSays : Obligations.WrittenWordsDecodeAsTheSpecSays := by
  unfold Obligations.WrittenWordsDecodeAsTheSpecSays
  simp only [decode_eq_iff]
  decide

end Sys2Proof
end
